-- ==== Sys2Proof/Word.lean ====
section
/-! DEFINITION. The word types of PSG3 (00_scope.md R11, R13), the widths the spec decides (R8), and nothing else. -/

/-- SAMPLE_BITS, signed two's complement (00_scope.md R8). -/
abbrev Sys2Proof.Config.sampleBits : Nat := 16

/-- OVF_BITS, saturating (00_scope.md R8). -/
abbrev Sys2Proof.Config.overflowBits : Nat := 32

/-- TS_BITS, the width of a stamp where one is written out; a queued stamp is an unbounded integer (00_scope.md R8). -/
abbrev Sys2Proof.Config.stampBits : Nat := 32

namespace Sys2Proof

/-- One register byte (10_state.md R21). -/
abbrev Byte := BitVec 8

/-- One operand or result word of a frame (30_encoding.md R92, R93). -/
abbrev Word := BitVec 32

/-- One PCM sample or volume-table entry, a signed number (00_scope.md R8, R12). How wide it is the design says (log 22). -/
abbrev Sample := Int

/-- An overflow counter (10_state.md R33). How wide it is the design says (log 22). -/
abbrev OverflowCount := Nat

/-- One command or response frame as one number (30_encoding.md R92, R93, R103). -/
abbrev FrameBits := BitVec 128

/-- The index of an instance slot as the CHIP field can name it: 0x00 to 0xFE (30_encoding.md R92). -/
abbrev SlotNo := Fin 255

/-- The index of one of the NREG = 14 hardware registers (10_state.md R21). -/
abbrev Reg := Fin 14

/-- A register index of the write port, 0 to 15 (30_encoding.md R94). -/
abbrev PortIndex := Fin 16

/-- A 5-bit volume level of one channel, 0 to 31 (00_scope.md R6). -/
abbrev Level := BitVec 5

end Sys2Proof
end

