-- ==== Sys2Proof/Syntax.lean ====
section
/-! DEFINITION. The abstract commands of PSG3: one constructor per row of spec/opcode_table.json
(30_encoding.md R90, R94, R95). -/

namespace Sys2Proof

/-- The CHIP field: the null handle 0xFF, or an instance slot number (30_encoding.md R92, R96). -/
inductive ChipSel where
  | null
  | slot (n : SlotNo)
deriving DecidableEq, Repr

/-- The commands. `cycle`, `elapsed` and `atCycle` are the spec's non-negative integers; ids, masks and requested
frequencies are the raw 32-bit operand words (30_encoding.md R95). -/
inductive Instr where
  /-- write tone period A low byte, 40_register_write.md R133 -/
  | wr0 (chip : ChipSel) (value : Byte) (cycle : Nat)
  /-- write tone period A high byte, 40_register_write.md R134 -/
  | wr1 (chip : ChipSel) (value : Byte) (cycle : Nat)
  /-- write tone period B low byte, 40_register_write.md R135 -/
  | wr2 (chip : ChipSel) (value : Byte) (cycle : Nat)
  /-- write tone period B high byte, 40_register_write.md R136 -/
  | wr3 (chip : ChipSel) (value : Byte) (cycle : Nat)
  /-- write tone period C low byte, 40_register_write.md R137 -/
  | wr4 (chip : ChipSel) (value : Byte) (cycle : Nat)
  /-- write tone period C high byte, 40_register_write.md R138 -/
  | wr5 (chip : ChipSel) (value : Byte) (cycle : Nat)
  /-- write noise period, 40_register_write.md R139 -/
  | wr6 (chip : ChipSel) (value : Byte) (cycle : Nat)
  /-- write mixer, 40_register_write.md R140 -/
  | wr7 (chip : ChipSel) (value : Byte) (cycle : Nat)
  /-- write channel A volume, 40_register_write.md R141 -/
  | wr8 (chip : ChipSel) (value : Byte) (cycle : Nat)
  /-- write channel B volume, 40_register_write.md R142 -/
  | wr9 (chip : ChipSel) (value : Byte) (cycle : Nat)
  /-- write channel C volume, 40_register_write.md R143 -/
  | wr10 (chip : ChipSel) (value : Byte) (cycle : Nat)
  /-- write envelope period low byte, 40_register_write.md R144 -/
  | wr11 (chip : ChipSel) (value : Byte) (cycle : Nat)
  /-- write envelope period high byte, 40_register_write.md R145 -/
  | wr12 (chip : ChipSel) (value : Byte) (cycle : Nat)
  /-- write envelope shape, 40_register_write.md R146 -/
  | wr13 (chip : ChipSel) (value : Byte) (cycle : Nat)
  /-- write reserved index 14, 40_register_write.md R147 -/
  | wr14 (chip : ChipSel) (value : Byte) (cycle : Nat)
  /-- write reserved index 15, 40_register_write.md R148 -/
  | wr15 (chip : ChipSel) (value : Byte) (cycle : Nat)
  /-- run a block; `bufv` says an output sink is attached, 43_synthesis_engine.md R220 -/
  | run (chip : ChipSel) (elapsed : Nat) (bufv : Bool)
  /-- rebase the queued stamps, 40_register_write.md R149 -/
  | cycleAdjust (chip : ChipSel) (elapsed : Nat)
  /-- reset an instance, 41_lifecycle.md R173 -/
  | reset (chip : ChipSel) (atCycle : Nat)
  /-- sample count of a span, 43_synthesis_engine.md R222 -/
  | bufSize (chip : ChipSel) (elapsed : Nat)
  /-- negotiate engine, clock and rate, 41_lifecycle.md R174 -/
  | configure (chip : ChipSel) (engineId clockHz rateHz : Word)
  /-- destroy an instance, 41_lifecycle.md R175 -/
  | cleanup (chip : ChipSel)
  /-- create an instance, 41_lifecycle.md R172 -/
  | create (chip : ChipSel)
  /-- change the active mask, 45_mute_rate_clock.md R300 -/
  | setActive (chip : ChipSel) (clearMask setMask : Word)
  /-- change the sampling rate, 45_mute_rate_clock.md R301 -/
  | setRate (chip : ChipSel) (requestedHz : Word)
  /-- select an engine, 45_mute_rate_clock.md R302 -/
  | setEngine (chip : ChipSel) (engineId : Word)
  /-- select the volume model, 42_volume_table.md R204 -/
  | setVolModel (chip : ChipSel) (modelId : Word)
  /-- one-time global initialisation, 41_lifecycle.md R170 -/
  | globalInit
  /-- global shutdown, 41_lifecycle.md R171 -/
  | globalShutdown
deriving DecidableEq, Repr

/-- The write command of port index `r`, WR0 to WR15 (30_encoding.md R94: the index is OPC[3:0]). -/
def Instr.wr (r : PortIndex) (chip : ChipSel) (value : Byte) (cycle : Nat) : Instr :=
  match r.val with
  | 0 => .wr0 chip value cycle
  | 1 => .wr1 chip value cycle
  | 2 => .wr2 chip value cycle
  | 3 => .wr3 chip value cycle
  | 4 => .wr4 chip value cycle
  | 5 => .wr5 chip value cycle
  | 6 => .wr6 chip value cycle
  | 7 => .wr7 chip value cycle
  | 8 => .wr8 chip value cycle
  | 9 => .wr9 chip value cycle
  | 10 => .wr10 chip value cycle
  | 11 => .wr11 chip value cycle
  | 12 => .wr12 chip value cycle
  | 13 => .wr13 chip value cycle
  | 14 => .wr14 chip value cycle
  | _ => .wr15 chip value cycle

end Sys2Proof
end

