-- ==== Sys2Proof/WellFormed.lean ====
section
/-! DEFINITION. Which abstract commands a frame can carry: a stamp or a span is below 2^31
(30_encoding.md R95, 00_scope.md R13 b). Every other operand's type is its whole domain. -/

namespace Sys2Proof

/-- A stamp or span that fits bits 30:0 of an operand word (30_encoding.md R95). -/
def spanOk (n : Nat) : Bool := decide (n < 2 ^ 31)

/-- Well-formed commands: those some frame of 30_encoding.md R92 carries. -/
def Instr.wf : Instr → Bool
  | .wr0 _ _ cycle => spanOk cycle
  | .wr1 _ _ cycle => spanOk cycle
  | .wr2 _ _ cycle => spanOk cycle
  | .wr3 _ _ cycle => spanOk cycle
  | .wr4 _ _ cycle => spanOk cycle
  | .wr5 _ _ cycle => spanOk cycle
  | .wr6 _ _ cycle => spanOk cycle
  | .wr7 _ _ cycle => spanOk cycle
  | .wr8 _ _ cycle => spanOk cycle
  | .wr9 _ _ cycle => spanOk cycle
  | .wr10 _ _ cycle => spanOk cycle
  | .wr11 _ _ cycle => spanOk cycle
  | .wr12 _ _ cycle => spanOk cycle
  | .wr13 _ _ cycle => spanOk cycle
  | .wr14 _ _ cycle => spanOk cycle
  | .wr15 _ _ cycle => spanOk cycle
  | .run _ elapsed _ => spanOk elapsed
  | .cycleAdjust _ elapsed => spanOk elapsed
  | .reset _ atCycle => spanOk atCycle
  | .bufSize _ elapsed => spanOk elapsed
  | .configure _ _ _ _ => true
  | .cleanup _ => true
  | .create _ => true
  | .setActive _ _ _ => true
  | .setRate _ _ => true
  | .setEngine _ _ => true
  | .setVolModel _ _ => true
  | .globalInit => true
  | .globalShutdown => true

end Sys2Proof
end

