-- ==== Sys2Proof/Decode.lean ====
section
/-! DEFINITION. The 128-bit command frame: its fields, the decoder (total, a reserved frame is rejected by name) and
the encoder (30_encoding.md R92, R94 to R97, R103). -/

namespace Sys2Proof

/-- The fields of a command frame (30_encoding.md R92). -/
structure Frame where
  /-- bits 127:120 -/
  opc : BitVec 8
  /-- bits 119:112 -/
  chip : BitVec 8
  /-- bits 111:105, must be zero -/
  mbzHigh : BitVec 7
  /-- bit 104 -/
  bufv : BitVec 1
  /-- bits 103:96, must be zero -/
  mbzLow : BitVec 8
  /-- bits 95:64 -/
  a : Word
  /-- bits 63:32 -/
  b : Word
  /-- bits 31:0 -/
  c : Word
deriving DecidableEq, Repr

/-- Takes the fields out of the 128 bits (30_encoding.md R92). -/
def Frame.ofBits (w : FrameBits) : Frame :=
  { opc := w.extractLsb' 120 8
    chip := w.extractLsb' 112 8
    mbzHigh := w.extractLsb' 105 7
    bufv := w.extractLsb' 104 1
    mbzLow := w.extractLsb' 96 8
    a := w.extractLsb' 64 32
    b := w.extractLsb' 32 32
    c := w.extractLsb' 0 32 }

/-- Lays the fields out in the 128 bits (30_encoding.md R92). -/
def Frame.toBits (f : Frame) : FrameBits :=
  f.opc ++ f.chip ++ f.mbzHigh ++ f.bufv ++ f.mbzLow ++ f.a ++ f.b ++ f.c

/-- Why a frame is reserved (30_encoding.md R97). -/
inductive Reserved where
  /-- OPC is 0x1D to 0xFF -/
  | opcode
  /-- a must-be-zero bit of the format is 1 -/
  | mustBeZero
  /-- BUFV is 1 outside RUN -/
  | bufv
  /-- CHIP is not 0xFF in GLOBAL_INIT or GLOBAL_SHUTDOWN -/
  | globalChip
deriving DecidableEq, Repr

/-- What decoding a frame yields: a command, or the verdict "reserved" (30_encoding.md R90). -/
inductive Decoded where
  | command (i : Instr)
  | reserved (why : Reserved)
deriving DecidableEq, Repr

/-- The command, if the frame carries one. -/
def Decoded.command? : Decoded → Option Instr
  | .command i => some i
  | .reserved _ => none

/-- The CHIP field as a handle (30_encoding.md R92, R96). -/
def chipOfField (v : BitVec 8) : ChipSel :=
  if h : v.toNat < 255 then .slot ⟨v.toNat, h⟩ else .null

/-- The CHIP field of a handle. -/
def fieldOfChip : ChipSel → BitVec 8
  | .null => 0xFF
  | .slot n => BitVec.ofNat 8 n.val

/-- The header's must-be-zero bits are zero (30_encoding.md R92). -/
def Frame.headerZero (f : Frame) : Bool := f.mbzHigh == 0 && f.mbzLow == 0

/-- A reserved frame's verdict where `ok` fails; else the command. BUFV is judged first, the other bits after it;
the order has no effect outside the model (30_encoding.md R97: every reserved frame is answered alike). -/
def Frame.checked (f : Frame) (ok : Bool) (i : Instr) : Decoded :=
  if f.bufv ≠ 0 then .reserved .bufv
  else if f.headerZero && ok then .command i
  else .reserved .mustBeZero

/-- Format W: value in A[7:0], cycle in B[30:0], the rest zero (30_encoding.md R92). -/
def Frame.formatW (f : Frame) (k : ChipSel → Byte → Nat → Instr) : Decoded :=
  f.checked (f.a.extractLsb' 8 24 == 0 && f.b.extractLsb' 31 1 == 0 && f.c == 0)
    (k (chipOfField f.chip) (f.a.extractLsb' 0 8) (f.b.extractLsb' 0 31).toNat)

/-- The must-be-zero operand bits of format N (30_encoding.md R92). -/
def Frame.zeroN (f : Frame) : Bool := f.a.extractLsb' 31 1 == 0 && f.b == 0 && f.c == 0

/-- Format N: span or cycle in A[30:0], the rest zero (30_encoding.md R92). -/
def Frame.formatN (f : Frame) (k : ChipSel → Nat → Instr) : Decoded :=
  f.checked f.zeroN (k (chipOfField f.chip) (f.a.extractLsb' 0 31).toNat)

/-- Format N of RUN, the only command that may set BUFV (30_encoding.md R92, R97). -/
def Frame.formatRun (f : Frame) : Decoded :=
  if f.headerZero && f.zeroN then
    .command (.run (chipOfField f.chip) (f.a.extractLsb' 0 31).toNat (f.bufv == 1))
  else .reserved .mustBeZero

/-- Format P: three full operand words (30_encoding.md R92). -/
def Frame.formatP (f : Frame) (k : ChipSel → Word → Word → Word → Instr) : Decoded :=
  f.checked true (k (chipOfField f.chip) f.a f.b f.c)

/-- Format Z: all operand words zero (30_encoding.md R92). -/
def Frame.formatZ (f : Frame) (k : ChipSel → Instr) : Decoded :=
  f.checked (f.a == 0 && f.b == 0 && f.c == 0) (k (chipOfField f.chip))

/-- Format Z with CHIP = 0xFF, for the two global commands (30_encoding.md R94, R97). -/
def Frame.formatGlobal (f : Frame) (i : Instr) : Decoded :=
  if f.chip ≠ 0xFF then .reserved .globalChip else f.formatZ (fun _ => i)

/-- Format M: clearMask in A, setMask in B, C zero (30_encoding.md R92). -/
def Frame.formatM (f : Frame) (k : ChipSel → Word → Word → Instr) : Decoded :=
  f.checked (f.c == 0) (k (chipOfField f.chip) f.a f.b)

/-- Format I: one id or value in A, B and C zero (30_encoding.md R92). -/
def Frame.formatI (f : Frame) (k : ChipSel → Word → Instr) : Decoded :=
  f.checked (f.b == 0 && f.c == 0) (k (chipOfField f.chip) f.a)

/-- The opcode map (30_encoding.md R94) with the reserved opcodes (R97). -/
def Frame.decode (f : Frame) : Decoded :=
  match f.opc.toNat with
  | 0x00 => f.formatW .wr0
  | 0x01 => f.formatW .wr1
  | 0x02 => f.formatW .wr2
  | 0x03 => f.formatW .wr3
  | 0x04 => f.formatW .wr4
  | 0x05 => f.formatW .wr5
  | 0x06 => f.formatW .wr6
  | 0x07 => f.formatW .wr7
  | 0x08 => f.formatW .wr8
  | 0x09 => f.formatW .wr9
  | 0x0A => f.formatW .wr10
  | 0x0B => f.formatW .wr11
  | 0x0C => f.formatW .wr12
  | 0x0D => f.formatW .wr13
  | 0x0E => f.formatW .wr14
  | 0x0F => f.formatW .wr15
  | 0x10 => f.formatRun
  | 0x11 => f.formatN .cycleAdjust
  | 0x12 => f.formatN .reset
  | 0x13 => f.formatN .bufSize
  | 0x14 => f.formatP .configure
  | 0x15 => f.formatZ .cleanup
  | 0x16 => f.formatZ .create
  | 0x17 => f.formatM .setActive
  | 0x18 => f.formatI .setRate
  | 0x19 => f.formatI .setEngine
  | 0x1A => f.formatI .setVolModel
  | 0x1B => f.formatGlobal .globalInit
  | 0x1C => f.formatGlobal .globalShutdown
  | _ => .reserved .opcode

/-- Decodes a 128-bit frame (30_encoding.md R90, R97). -/
def decode (w : FrameBits) : Decoded := (Frame.ofBits w).decode

/-- A frame with header bits zero. -/
def frameOf (opc : BitVec 8) (chip : ChipSel) (a b c : Word) (bufv : BitVec 1 := 0) : Frame :=
  { opc := opc, chip := fieldOfChip chip, mbzHigh := 0, bufv := bufv, mbzLow := 0, a := a, b := b, c := c }

/-- A format-W frame. -/
def frameW (opc : BitVec 8) (chip : ChipSel) (value : Byte) (cycle : Nat) : Frame :=
  frameOf opc chip (value.setWidth 32) (BitVec.ofNat 32 cycle) 0

/-- The fields of the frame that carries a command (30_encoding.md R92, R94). -/
def Instr.frame : Instr → Frame
  | .wr0 chip value cycle => frameW 0x00 chip value cycle
  | .wr1 chip value cycle => frameW 0x01 chip value cycle
  | .wr2 chip value cycle => frameW 0x02 chip value cycle
  | .wr3 chip value cycle => frameW 0x03 chip value cycle
  | .wr4 chip value cycle => frameW 0x04 chip value cycle
  | .wr5 chip value cycle => frameW 0x05 chip value cycle
  | .wr6 chip value cycle => frameW 0x06 chip value cycle
  | .wr7 chip value cycle => frameW 0x07 chip value cycle
  | .wr8 chip value cycle => frameW 0x08 chip value cycle
  | .wr9 chip value cycle => frameW 0x09 chip value cycle
  | .wr10 chip value cycle => frameW 0x0A chip value cycle
  | .wr11 chip value cycle => frameW 0x0B chip value cycle
  | .wr12 chip value cycle => frameW 0x0C chip value cycle
  | .wr13 chip value cycle => frameW 0x0D chip value cycle
  | .wr14 chip value cycle => frameW 0x0E chip value cycle
  | .wr15 chip value cycle => frameW 0x0F chip value cycle
  | .run chip elapsed bufv => frameOf 0x10 chip (BitVec.ofNat 32 elapsed) 0 0 (BitVec.ofBool bufv)
  | .cycleAdjust chip elapsed => frameOf 0x11 chip (BitVec.ofNat 32 elapsed) 0 0
  | .reset chip atCycle => frameOf 0x12 chip (BitVec.ofNat 32 atCycle) 0 0
  | .bufSize chip elapsed => frameOf 0x13 chip (BitVec.ofNat 32 elapsed) 0 0
  | .configure chip engineId clockHz rateHz => frameOf 0x14 chip engineId clockHz rateHz
  | .cleanup chip => frameOf 0x15 chip 0 0 0
  | .create chip => frameOf 0x16 chip 0 0 0
  | .setActive chip clearMask setMask => frameOf 0x17 chip clearMask setMask 0
  | .setRate chip requestedHz => frameOf 0x18 chip requestedHz 0 0
  | .setEngine chip engineId => frameOf 0x19 chip engineId 0 0
  | .setVolModel chip modelId => frameOf 0x1A chip modelId 0 0
  | .globalInit => frameOf 0x1B .null 0 0 0
  | .globalShutdown => frameOf 0x1C .null 0 0 0

/-- The frame that carries a command, as 128 bits. -/
def encode (i : Instr) : FrameBits := i.frame.toBits

/-- A frame from the opcode table's numbering: bit 0 is the least significant bit of the 128-bit word, and the bits
above `nbits` are zero. A frame is ONE word (20_memory.md R62), so no byte order enters. -/
def frameOfTable (nbits w : Nat) : FrameBits := BitVec.ofNat 128 (w % 2 ^ nbits)

/-- What the decoder reads from the opcode table's bits `w`. -/
def decodeTableWord (nbits w : Nat) : Option Instr := (decode (frameOfTable nbits w)).command?

end Sys2Proof
end

