-- ==== Sys2Proof/Config.lean ====
section
/-! DEFINITION. What an implementation of PSG3 fixes (00_scope.md R7) and the free values. The parameters are one opaque
record that satisfies the spec's laws: nothing can be proved of it beyond them. -/

namespace Sys2Proof.Config

/-- The three synthesis engines (10_state.md R37). -/
inductive EngineKind where
  | pulse
  | stepBandlimited
  | debugDump
deriving DecidableEq, Repr, Inhabited

/-- The two volume models (10_state.md R40, 42_volume_table.md R202, R203). -/
inductive VolModel where
  | linear
  | nonlinear
deriving DecidableEq, Repr, Inhabited

/-- The open parameters with the only laws a model may assume of them (00_scope.md R7). -/
structure Params where
  /-- POOL_CAP, event slots in the arena -/
  poolCap : Nat
  /-- CLOCK_HZ, the one supported chip clock -/
  clockHz : Nat
  /-- RATE_MIN -/
  rateMin : Nat
  /-- RATE_MAX -/
  rateMax : Nat
  /-- RATE_DEFAULT -/
  rateDefault : Nat
  /-- PEAK_LEVEL, the argument of the table builder -/
  peakLevel : Nat
  /-- CURVE, the nonlinear level curve -/
  curve : Fin 32 → Nat
  /-- NCHIP, instance slots -/
  nchip : Nat
  /-- EngineSetupOk: the answer of the given draw for a kind and a rate (60_exceptions.md R326) -/
  setupOk : Nat → EngineKind → Nat → Bool
  /-- EngineRateAdjust (45_mute_rate_clock.md R304) -/
  rateAdjust : EngineKind → Nat → Nat
  /-- BlepOut(filter, s, K, n): the samples and the new filter state (43_synthesis_engine.md R232) -/
  blepOut : Nat → List Sample → Nat → Nat → List Sample × Nat
  poolCap_pos : 1 ≤ poolCap
  clockHz_pos : 1 ≤ clockHz
  rateMin_pos : 1 ≤ rateMin
  rateMin_le_default : rateMin ≤ rateDefault
  rateDefault_le_max : rateDefault ≤ rateMax
  curve_zero : curve 0 = 0
  curve_mono : ∀ l m, l ≤ m → curve l ≤ curve m
  curve_max_pos : 1 ≤ curve 31
  nchip_pos : 1 ≤ nchip
  /-- the CHIP field names at most 255 slots (92_eei_decisions.md part 1) -/
  nchip_le : nchip ≤ 255
  /-- the result lies in the supported range, for a request that lies there (log 15) -/
  rateAdjust_range : ∀ k hz, rateMin ≤ hz → hz ≤ rateMax →
    rateMin ≤ rateAdjust k hz ∧ rateAdjust k hz ≤ rateMax
  rateAdjust_idem : ∀ k hz, rateMin ≤ hz → hz ≤ rateMax →
    rateAdjust k (rateAdjust k hz) = rateAdjust k hz
  /-- law (a) of R232 -/
  blepOut_length : ∀ f s k n, (blepOut f s k n).1.length = n
  /-- law (d) of R232; 0 is the zero filter state (log 16) -/
  blepOut_silent : ∀ k n, blepOut 0 (List.replicate k 0) k n = (List.replicate n 0, 0)

/-- A number fits the given number of bits, signed two's complement (00_scope.md R13 b). -/
abbrev FitsSigned (bits : Nat) (v : Int) : Prop := -2 ^ (bits - 1) ≤ v ∧ v < 2 ^ (bits - 1)

/-- The laws that name SAMPLE_BITS: PEAK_LEVEL and the samples of BlepOut fit it (00_scope.md R7; 43_synthesis_engine.md
R232 a). -/
structure Params.FitSamples (P : Params) (bits : Nat) : Prop where
  peakLevel : FitsSigned bits P.peakLevel
  blepOut : ∀ f s k n, ∀ v ∈ (P.blepOut f s k n).1, FitsSigned bits v

/-- CURVE_MAX = CURVE(31) (42_volume_table.md R203). -/
def Params.curveMax (P : Params) : Nat := P.curve 31

/-- The spec's example parameter set P1 with its example curve (00_scope.md R9). It is no property of the hardware: it
is the witness that lawful parameters exist and what the tests run on. P1 names no BlepOut: that field (`n` zero samples,
the filter state as it was) is the model's own, DESIGN CHOICE, no part of the spec's P1; no test rests on it (log 1). -/
def exampleP1 : Params where
  poolCap := 8
  clockHz := 2000000
  rateMin := 8000
  rateMax := 250000
  rateDefault := 44100
  peakLevel := 9300
  curve := fun l => l.val * l.val
  nchip := 2
  setupOk := fun _ _ _ => true
  rateAdjust := fun _ hz => hz
  -- DESIGN CHOICE, not in P1 (log 1)
  blepOut := fun f _ _ n => (List.replicate n 0, f)
  poolCap_pos := by decide
  clockHz_pos := by decide
  rateMin_pos := by decide
  rateMin_le_default := by decide
  rateDefault_le_max := by decide
  curve_zero := by decide
  curve_mono := fun _ _ h => Nat.mul_le_mul h h
  curve_max_pos := by decide
  nchip_pos := by decide
  nchip_le := by decide
  rateAdjust_range := fun _ _ h h' => ⟨h, h'⟩
  rateAdjust_idem := fun _ _ _ _ => rfl
  blepOut_length := fun _ _ _ _ => List.length_replicate
  blepOut_silent := fun _ _ => rfl

/-- P1 keeps the laws at the spec's SAMPLE_BITS. -/
theorem exampleP1_fits : exampleP1.FitSamples sampleBits where
  peakLevel := by decide
  blepOut _ _ _ _ v hv := by
    obtain rfl := List.eq_of_mem_replicate hv
    decide

/-- The hardware's own parameters, unknown: no body, so no proof can see them (log 1). -/
opaque choice : Option { P : Params // P.FitSamples sampleBits }

/-- The parameters of the machine: whatever `choice` holds, so any lawful record; `exampleP1` only makes the term total
where `choice` is `none`, which no proof can tell (log 1). -/
def hw : Params := (choice.getD ⟨exampleP1, exampleP1_fits⟩).val

/-- The machine's parameters keep the laws at the spec's SAMPLE_BITS. -/
theorem hw_fits : hw.FitSamples sampleBits := (choice.getD ⟨exampleP1, exampleP1_fits⟩).property

/-- Free: `G.volModel` after GLOBAL_SHUTDOWN, by draw (41_lifecycle.md R171; log 3). -/
opaque freeVolModel : Nat → VolModel

/-- Free: the entries of `G.volTable` after GLOBAL_SHUTDOWN, by draw (41_lifecycle.md R171; log 3). -/
opaque freeVolEntry : Nat → Fin 32 → Fin 32 → Fin 32 → Sample

/-- Free: `G.defEngine` after GLOBAL_SHUTDOWN, by draw (41_lifecycle.md R171; log 3). -/
opaque freeEngine : Nat → EngineKind

/-- Free: `G.defRate` after GLOBAL_SHUTDOWN, by draw (41_lifecycle.md R171; log 3). -/
opaque freeRate : Nat → Nat

/-- Free: `G.defClock` after GLOBAL_SHUTDOWN, by draw (41_lifecycle.md R171; log 3). -/
opaque freeClock : Nat → Nat

/-- Free: `G.defActive` after GLOBAL_SHUTDOWN, by draw (41_lifecycle.md R171; log 3). -/
opaque freeActive : Nat → BitVec 3

/-- Free: the result word for a number that does not fit 32 bits (30_encoding.md R93; log 7). -/
opaque freeResultWord : Nat → Word

/-- Free: the stamp field of a dump record whose stamp does not fit 32 bits (30_encoding.md R102; log 8). -/
opaque freeDumpStamp : Int → Word

end Sys2Proof.Config
end

