-- ==== Sys2Proof/Machine/State.lean ====
section
/-! DEFINITION. The state of PSG3 as plain data (10_state.md), its reset value, and the reasons a step can stop. -/

namespace Sys2Proof.Machine

open Sys2Proof.Config

/-- The channels A = 0, B = 1, C = 2 (00_scope.md R11). -/
inductive Channel where
  | a
  | b
  | c
deriving DecidableEq, Repr

/-- One thing per channel. -/
structure PerChannel (α : Type) where
  a : α
  b : α
  c : α
deriving DecidableEq, Repr

/-- The part that belongs to a channel. -/
def PerChannel.get {α : Type} (p : PerChannel α) : Channel → α
  | .a => p.a
  | .b => p.b
  | .c => p.c

/-- A register file, indices 0 to 13, full bytes (10_state.md R21, R22). -/
abbrev RegFile := Vector Byte 14

/-- A RegisterEvent (10_state.md R31, 30_encoding.md R91); the stamp is an unbounded integer (00_scope.md R13 b). -/
structure Event where
  ts : Int
  reg : Reg
  val : Byte
deriving DecidableEq, Repr

/-- The three queues of an instance (10_state.md R30). -/
inductive QueueId where
  | tone
  | noise
  | env
deriving DecidableEq, Repr

/-- The pending-write queues, front first (10_state.md R30). -/
structure Queues where
  tone : List Event
  noise : List Event
  env : List Event
deriving DecidableEq, Repr

/-- One tone generator's counter and phase, toneCnt and tonePhase (10_state.md R42). -/
structure ToneGen where
  count : BitVec 12
  phase : Bool
deriving DecidableEq, Repr

/-- Engine-private state (10_state.md R42). -/
structure EngineState where
  tone : PerChannel ToneGen
  noiseCnt : BitVec 6
  lfsr : BitVec 17
  envCnt : BitVec 16
  envPos : Nat
  /-- StepBandlimited's filter state, opaque; 0 is its zero state (log 16) -/
  filter : Nat
deriving DecidableEq, Repr

/-- The engine binding of a Live instance; engine-private state exists exactly while an engine is bound
(10_state.md R38, 41_lifecycle.md R177, R178, R180; log 12). Destroyed is a state of the slot. -/
inductive Binding where
  | unconfigured
  | configured (e : EngineState)
  | running (e : EngineState)
deriving DecidableEq, Repr

/-- One Live instance, the ChipState (10_state.md R20 to R39). -/
structure Chip where
  /-- shadow registers -/
  sh : RegFile
  /-- committed registers -/
  x : RegFile
  queues : Queues
  poolUsed : Nat
  overflowCount : OverflowCount
  activeMask : BitVec 3
  muteRep : BitVec 15
  engineKind : EngineKind
  binding : Binding
  sampleRateHz : Nat
  clockHz : Nat
deriving DecidableEq, Repr

/-- The existence of an instance (10_state.md R48). -/
inductive Life where
  | absent
  | live (c : Chip)
  | destroyed
deriving DecidableEq, Repr

/-- An instance slot with its two output streams (10_state.md R20, R43; log 11). -/
structure Slot where
  life : Life
  /-- the PCM stream, oldest first -/
  pcm : List Sample
  /-- the DUMP stream, oldest first -/
  dump : List (BitVec 64)
deriving DecidableEq, Repr

/-- Diagnostic notices: the four kinds the spec decides, and any other kind a design may have, by a number and its data
(60_exceptions.md R334, 92_eei_decisions.md D45; log 24). -/
inductive Notice where
  | clock (requested : Word)
  | engine (id : Word)
  | volModel (id : Word)
  | overflow (chip : SlotNo) (count : OverflowCount)
  | other (kind : Nat) (data : List Nat)
deriving DecidableEq, Repr

/-- Status codes (60_exceptions.md R321). -/
inductive Status where
  | ok
  | eInval
  | eState
  | eSetup
deriving DecidableEq, Repr

/-- A response: the status and the three result words (30_encoding.md R93). -/
structure Response where
  status : Status
  res0 : Word
  res1 : Word
  res2 : Word
deriving DecidableEq, Repr

/-- The volume table, 32×32×32: outermost level C, then B, then A, so that the order of the entries is that of
`idx = la | lb << 5 | lc << 10` (10_state.md R40). -/
abbrev VolTable := Vector (Vector (Vector Sample 32) 32) 32

/-- The global state `G` but for the DIAG stream (10_state.md R40, R41). -/
structure Global where
  init : Bool
  volModel : VolModel
  volTable : VolTable
  defEngine : EngineKind
  defRate : Nat
  defClock : Nat
  defActive : BitVec 3
deriving DecidableEq, Repr

/-- The machine (10_state.md R20), with the command port, the response port and the count of environment draws. -/
structure State where
  g : Global
  /-- the instance slots, NCHIP of them -/
  chips : List Slot
  /-- the DIAG stream, oldest first -/
  diag : List Notice
  /-- frames on the command port that the block has not taken yet, next first (log 5) -/
  cmds : List FrameBits
  /-- what the response port shows: the response of the last command (log 6) -/
  resp : Option Response
  /-- how many environment draws have been taken (log 2, log 3) -/
  draws : Nat
deriving DecidableEq, Repr

/-- No step of PSG3 faults: every error is a status in a response and the machine goes on (60_exceptions.md R320,
R329, R330: "Nothing is process-fatal"). So there is no constructor and no raiser; safe (log 21). -/
inductive Fault
deriving DecidableEq, Repr

/-- Refusals. -/
inductive Refusal where
  /-- Raised by an arm of `exec` whose instruction has no meaning yet, and by nothing else; safe. No arm does. -/
  | notModelled (mnemonic : String)
deriving DecidableEq, Repr

/-- `G` at power-on: not initialised; the rest is unspecified and named here (70_reset_and_hazards.md R352;
DESIGN CHOICE, log 4, unsafe). -/
def Global.powerOn (P : Params) : Global :=
  { init := false
    volModel := .linear
    volTable := Vector.replicate 32 (Vector.replicate 32 (Vector.replicate 32 0))
    defEngine := .pulse
    defRate := P.rateDefault
    defClock := P.clockHz
    defActive := 0b111 }

/-- An Absent slot with empty streams. -/
def Slot.absent : Slot := { life := .absent, pcm := [], dump := [] }

/-- Power-on: `G.init` = 0 and every slot Absent (10_state.md R46, 70_reset_and_hazards.md R352); nothing on the
command port, nothing answered, no draw taken (log 4, 5, 6, 2). -/
def State.reset : State :=
  { g := Global.powerOn hw
    chips := List.replicate hw.nchip Slot.absent
    diag := []
    cmds := []
    resp := none
    draws := 0 }

end Sys2Proof.Machine
end

