-- ==== Sys2Proof/Machine/Design.lean ====
section
/-! DEFINITION. The shape of the level-D configuration: what the spec decides where its source is silent, as a record the
machine takes as an argument (00_scope.md R5, R8). The spec's own values are defined in Operands, Flags, Ops, Generators
and Synthesis and put together as `design` in Decided.lean. The open parameters are in Config.lean. -/

namespace Sys2Proof.Machine

open Sys2Proof.Config

/-- TS_BITS, SAMPLE_BITS, OVF_BITS (00_scope.md R8; 92_eei_decisions.md D12 to D14). -/
structure Widths where
  /-- of a stamp, where one is written out; a queued stamp is an unbounded integer -/
  stamp : Nat
  sample : Nat
  overflow : Nat
deriving DecidableEq, Repr

/-- The register index map (00_scope.md R8, 10_state.md R22). -/
structure RegisterMap where
  tonePeriodLow : Channel → Reg
  tonePeriodHigh : Channel → Reg
  noisePeriod : Reg
  mixer : Reg
  volume : Channel → Reg
  envPeriodLow : Reg
  envPeriodHigh : Reg
  envShape : Reg

/-- The bit fields of the registers (00_scope.md R8, 10_state.md R23 to R28). -/
structure BitFields where
  /-- TP of the high and the low byte -/
  tonePeriod : Byte → Byte → BitVec 12
  /-- NP -/
  noisePeriod : Byte → BitVec 5
  /-- TDIS of a channel, in the mixer byte -/
  toneDisabled : Byte → Channel → Bool
  /-- NDIS of a channel, in the mixer byte -/
  noiseDisabled : Byte → Channel → Bool
  /-- M, in a volume byte -/
  envelopeEnabled : Byte → Bool
  /-- V, in a volume byte -/
  fixedVolume : Byte → BitVec 4
  /-- EP of the high and the low byte -/
  envPeriod : Byte → Byte → BitVec 16
  /-- the four shape bits, in the shape byte -/
  shape : Byte → BitVec 4
  shapeHold : BitVec 4 → Bool
  shapeAlt : BitVec 4 → Bool
  shapeAtt : BitVec 4 → Bool
  shapeCont : BitVec 4 → Bool

/-- Levels, mute representation, table index and table entry (00_scope.md R8, 44_generators.md R265, 10_state.md R36, R40;
92_eei_decisions.md D46). -/
structure Levels where
  levelFixed : BitVec 4 → Level
  levelEnv : Nat → Level
  muteLut : BitVec 3 → BitVec 15
  /-- the table index of the levels of A, B, C -/
  pack : Level → Level → Level → BitVec 15
  /-- the levels of A, B, C of a table index -/
  unpack : BitVec 15 → Level × Level × Level
  /-- the table entry of the levels of A, B, C, for a contribution curve and a peak level -/
  tableEntry : (Fin 32 → Nat) → Nat → Fin 32 → Fin 32 → Fin 32 → Nat

/-- What a reset and an initialisation put in place (00_scope.md R8, 10_state.md R46). -/
structure Defaults where
  resetReg : RegFile
  builtinEngine : EngineKind
  builtinVolModel : VolModel
  builtinActive : BitVec 3
  lfsrInit : BitVec 17

/-- Identifier values, status codes and the coercion of unknown ids (00_scope.md R8, 30_encoding.md R98, 60_exceptions.md
R321; 92_eei_decisions.md D40, D41). -/
structure Identifiers where
  defaultId : Word
  queryId : Word
  engineId : EngineKind → Word
  modelId : VolModel → Word
  statusCode : Status → BitVec 8
  /-- what an unknown engine id selects, of the default engine and the current one -/
  unknownEngine : EngineKind → EngineKind → EngineKind
  /-- what an unknown model id selects, with the given model in force -/
  unknownModel : VolModel → VolModel

/-- The command frame, the response frame and the dump records (00_scope.md R8, 30_encoding.md R92, R93, R102). -/
structure Frames where
  command : FrameBits → Decoded
  /-- the frame of a status code and the three result words -/
  response : BitVec 8 → Word → Word → Word → FrameBits
  /-- the dump records of an applied event, for a width of stamps -/
  record : Nat → QueueId → Event → List (BitVec 64)

/-- The conditions under which a command fails (60_exceptions.md R328); the register index of a write among them
(92_eei_decisions.md D20). -/
inductive Check where
  | frame
  | handle
  /-- `G.init` is not as the command needs it -/
  | init
  /-- a slot is Live that must not be -/
  | live
  | alignment
  | buffer
  | binding
  | index
deriving DecidableEq, Repr

/-- The commands by what they check and how they answer; WR0 to WR15 are one, and so are all reserved frames
(30_encoding.md R94, R97). -/
inductive CommandKind where
  | reserved
  | write
  | run
  | cycleAdjust
  | reset
  | bufSize
  | configure
  | cleanup
  | create
  | setActive
  | setRate
  | setEngine
  | setVolModel
  | globalInit
  | globalShutdown
deriving DecidableEq, Repr

/-- How a command ends: `return`, `fail_setup`, or `raise` with a status (00_scope.md R12). -/
inductive Ending where
  | done
  | setupFailed
  | failed (st : Status)
deriving DecidableEq, Repr

/-- Which conditions a command checks, in which order, and with which status it fails (60_exceptions.md R322, R327, R328;
92_eei_decisions.md D20, D31, D34 to D44, D49, D51, D54). -/
structure Checks where
  /-- the order of the checks, first to decide first -/
  order : List Check
  status : Check → Status
  made : CommandKind → Check → Bool
  /-- a handle that is not null and names no Live instance is the null handle to SETACTIVE, SET_ENGINE and SET_VOLMODEL -/
  deadIsNull : Bool

/-- What a register write stores and queues, what is dropped of it, and what a dropped append and a rebase count
(40_register_write.md R132; 92_eei_decisions.md D14, D21, D23, D51). -/
structure Writes where
  /-- the byte stored for a register -/
  stored : Reg → Byte → Byte
  /-- the queues of a mixer write, in order -/
  mixerQueues : List QueueId
  /-- of the queues a write's event goes to, those that get it with the given number of free slots, and the drops counted -/
  accept : Nat → List QueueId → List QueueId × Nat
  /-- the overflow counter of the given width after one dropped append -/
  countDrop : Nat → OverflowCount → OverflowCount
  /-- the arena slots in use after CYCLEADJUST, of those in use before and the queues -/
  reclaim : Nat → Queues → Nat
  /-- an event for one queue is queued or dropped, and a drop counts one (40_register_write.md R132, the source's words) -/
  accept_one : ∀ room id, accept room [id] = if 0 < room then ([id], 0) else ([], 1)
  /-- no queue gets an event that does not go to it -/
  accept_sublist : ∀ room ids, (accept room ids).1.Sublist ids
  /-- the arena holds no more than it has slots -/
  accept_le : ∀ room ids, (accept room ids).1.length ≤ room

/-- When a queued event takes effect (43_synthesis_engine.md R223, R226; 92_eei_decisions.md D28). -/
structure Sequencing where
  /-- events stamped up to this are applied before the given tick is mixed -/
  due : Nat → Int
  /-- events stamped up to this are applied at the end of the given span -/
  last : Nat → Int
  /-- the order of the queues among equal stamps, lowest first -/
  rank : QueueId → Nat
  /-- a tick of a span applies nothing that its end would not -/
  due_le_last : ∀ k elapsed, 8 * (k + 1) ≤ elapsed → due k ≤ last elapsed
  /-- no event at or beyond the span (90_conflicts.md C5) -/
  last_lt : ∀ elapsed, last elapsed < elapsed
  rank_inj : ∀ id id', rank id = rank id' → id = id'

/-- What power-on, GLOBAL_INIT and GLOBAL_SHUTDOWN make of `G` and the slots (41_lifecycle.md R170, R171;
70_reset_and_hazards.md R352; 92_eei_decisions.md D42). -/
structure Lifetime where
  powerOn : Params → Global × List Slot
  /-- after GLOBAL_INIT, of the `G` before it, the `G` with the built-in defaults and the slots -/
  opened : Global → Global → List Slot → Global × List Slot
  /-- after GLOBAL_SHUTDOWN, of the count of draws, `G` and the slots -/
  closed : Nat → Global → List Slot → Global × List Slot
  powerOn_length : ∀ P, (powerOn P).2.length = P.nchip
  opened_length : ∀ old new l, (opened old new l).2.length = l.length
  closed_length : ∀ draw g l, (closed draw g l).2.length = l.length

/-- An instance after engine setup, how the command that set it up ends, and how many environment draws that took. -/
structure SetUp where
  chip : Chip
  ending : Ending
  draws : Nat
deriving DecidableEq, Repr

/-- What CREATE leaves in the slot, how it ends, its result words, and how many environment draws it took. -/
structure Created where
  slot : Slot
  ending : Ending
  res0 : Word
  res1 : Word
  res2 : Word
  draws : Nat
deriving DecidableEq, Repr

/-- What the commands on an instance, and the setters with the null handle, make of it (92_eei_decisions.md D22, D35 to
D41, D53). -/
structure Transitions where
  /-- engine setup by a command: of the instance before the command, that with the negotiated values, the state of a fresh
  engine, and the answer of the next draw -/
  afterSetup : CommandKind → Chip → Chip → EngineState → Bool → SetUp
  /-- the slot after RESET at the given cycle, of the slot before it and that with what the source lists done -/
  alsoReset : Nat → Slot → Slot → Slot
  /-- the instance after a RUN of the given span, of the one before it and the one as its engine leaves it -/
  alsoRun : Nat → Chip → Chip → Chip
  /-- the slot after CLEANUP, of the slot before it and that slot Destroyed -/
  alsoCleanup : Slot → Slot → Slot
  /-- SET_ENGINE with the id QUERY on an instance answers the engine in force and does nothing -/
  queryIsGetter : Bool
  /-- the volume table is rebuilt when the second model takes the place of the first -/
  rebuilds : VolModel → VolModel → Bool
  /-- the mask SETACTIVE makes of the old one, the clear and the set mask -/
  newMask : BitVec 3 → Word → Word → BitVec 3
  /-- what SETACTIVE with the null handle makes of `G`, for a new mask -/
  nullActive : BitVec 3 → Global → Global
  /-- what SET_ENGINE with the null handle makes of `G`, for a kind -/
  nullEngine : EngineKind → Global → Global
  /-- what SETRATE with the null handle makes of `G`; none: it fails -/
  nullRate : Nat → Global → Option Global

/-- What is answered and reported, and how (30_encoding.md R93; 60_exceptions.md R321, R334; 92_eei_decisions.md D15, D32,
D37, D45, D53). -/
structure Reports where
  /-- the response to a command, of how it ends and its three result words -/
  answer : CommandKind → Ending → Word → Word → Word → Response
  /-- of a requested clock that is not the one supported -/
  clock : Word → List Notice
  /-- of an unknown engine id -/
  engine : Word → List Notice
  /-- of an unknown model id -/
  volModel : Word → List Notice
  /-- of a nonzero overflow counter at CLEANUP -/
  overflow : SlotNo → OverflowCount → List Notice
  /-- what RUN answers, of the number of samples -/
  runWord : Nat → Word
  /-- what CLEANUP answers, of the overflow counter -/
  cleanupWord : OverflowCount → Word

/-- The values the spec decides: the rows of 00_scope.md R8 and the decisions of 92_eei_decisions.md that a value or a
function can carry. -/
structure Decisions where
  widths : Widths
  map : RegisterMap
  fields : BitFields
  levels : Levels
  defaults : Defaults
  ids : Identifiers
  frames : Frames
  checks : Checks
  writes : Writes
  sequence : Sequencing
  lifetime : Lifetime
  transitions : Transitions
  reports : Reports

/-- GeneratorModel: StepGenerators, MixSample, the engine reset values (44_generators.md, opening), and what an applied
event does to the generators (43_synthesis_engine.md R224; 92_eei_decisions.md D26). Each may depend on the engine
(R228, R229; D30, D57), a generator step on the mute representation too (44_generators.md R266; D58). -/
structure GeneratorModel where
  stepGenerators : EngineKind → BitVec 15 → RegFile → EngineState → EngineState
  mixSample : EngineKind → VolTable → BitVec 15 → RegFile → EngineState → Sample
  engineReset : EngineState
  onEvent : EngineKind → Reg → Byte → EngineState → EngineState

/-- All level-D content the machine takes as an argument: the decided values, the generator model over them, CREATE, the
sample counts, PulseOut, the samples of DebugDump and the layout of the PCM stream (00_scope.md R5; 41_lifecycle.md R172;
43_synthesis_engine.md R220, R225, R229, R231; 10_state.md R43; 92_eei_decisions.md D29 to D34). -/
structure Design where
  decisions : Decisions
  generators : Decisions → GeneratorModel
  /-- CREATE, of the parameters, `G`, the answer of the next draw for a kind and a rate, and the slot before it -/
  creation : Decisions → GeneratorModel → Params → Global → (EngineKind → Nat → Bool) → Slot → Created
  /-- engineBufferSize of an instance, for a span -/
  sampleCount : Chip → Nat → Nat
  /-- samplesWritten of an engine's run, of engineBufferSize -/
  written : EngineKind → Nat → Nat
  /-- the output of Pulse and its filter state after it, of the filter state, `s`, `K` and `n` -/
  pulseOut : Nat → List Sample → Nat → Nat → List Sample × Nat
  debugOut : Nat → List Sample
  /-- what a run of an engine appends to the PCM stream, of the table, the mute representation, the registers and
  generators at each tick, and the engine's output -/
  layout : EngineKind → VolTable → BitVec 15 → List (RegFile × EngineState) → List Sample → List Sample
  pulseOut_length : ∀ f s k n, (pulseOut f s k n).1.length = n
  debugOut_length : ∀ n, (debugOut n).length = n

/-- The generator model under the decided values of the same design. -/
def Design.model (D : Design) : GeneratorModel := D.generators D.decisions

/-- CREATE under the decided values of the same design. -/
def Design.create (D : Design) (P : Params) (g : Global) (setup : EngineKind → Nat → Bool) (old : Slot) : Created :=
  D.creation D.decisions D.model P g setup old

end Sys2Proof.Machine
end

