-- ==== Sys2Proof/Machine/Flags.lean ====
section
/-! DEFINITION. Flags and status bits: the register bits that gate and select, the saturating overflow counter, the
mute representation, the binding (10_state.md R25, R26, R28, R33, R35, R36, R45). -/

namespace Sys2Proof.Machine

open Sys2Proof.Config

/-- The number of a channel, A = 0, B = 1, C = 2 (00_scope.md R11). -/
def Channel.index : Channel → Nat
  | .a => 0
  | .b => 1
  | .c => 2

/-- TDIS of a channel: the tone generator does not feed it (10_state.md R25). -/
def toneDisabled (mixer : Byte) (ch : Channel) : Bool := mixer.getLsbD ch.index

/-- NDIS of a channel: the noise generator does not feed it (10_state.md R25). -/
def noiseDisabled (mixer : Byte) (ch : Channel) : Bool := mixer.getLsbD (3 + ch.index)

/-- M of a channel's volume byte: the level comes from the envelope (10_state.md R26). -/
def envelopeEnabled (volume : Byte) : Bool := volume.getLsbD 4

/-- HOLD (10_state.md R28). -/
def shapeHold (shape : BitVec 4) : Bool := shape.getLsbD 0

/-- ALT (10_state.md R28). -/
def shapeAlt (shape : BitVec 4) : Bool := shape.getLsbD 1

/-- ATT (10_state.md R28). -/
def shapeAtt (shape : BitVec 4) : Bool := shape.getLsbD 2

/-- CONT (10_state.md R28). -/
def shapeCont (shape : BitVec 4) : Bool := shape.getLsbD 3

/-- One more dropped append, saturating at 2^bits − 1 (40_register_write.md R132, 10_state.md R33). -/
def countDrop (bits : Nat) (n : OverflowCount) : OverflowCount := min (n + 1) (2 ^ bits - 1)

/-- MUTE_LUT (10_state.md R36). -/
def muteLut (mask : BitVec 3) : BitVec 15 :=
  (if mask.getLsbD 0 then 0x001F else 0) ||| (if mask.getLsbD 1 then 0x03E0 else 0) |||
    (if mask.getLsbD 2 then 0x7C00 else 0)

/-- The new mask: cleared bits off, then set bits on, 3 bits (45_mute_rate_clock.md R300). -/
def newMask (prev : BitVec 3) (clearMask setMask : Word) : BitVec 3 :=
  (prev &&& ~~~(clearMask.setWidth 3)) ||| setMask.setWidth 3

/-- The engine-private state of a bound engine: binding Configured or Running (41_lifecycle.md R180). -/
def Binding.engine? : Binding → Option EngineState
  | .unconfigured => none
  | .configured e => some e
  | .running e => some e

/-- The binding after engine setup: freshly Configured, or Unconfigured with no engine-private state, the old engine's
being released in either case (41_lifecycle.md R172, R174, R176 to R178; 60_exceptions.md R325). -/
def reboundBinding (fresh : EngineState) (ok : Bool) : Binding := if ok then .configured fresh else .unconfigured

/-- How a command that set an engine up ends, of the answer (41_lifecycle.md R172, R174). -/
def setupEnding (ok : Bool) : Ending := if ok then .done else .setupFailed

/-- Engine setup: one draw; the negotiated values stay, also of a setup that failed (41_lifecycle.md R174,
60_exceptions.md R325). -/
def settle (_cmd : CommandKind) (_old new : Chip) (fresh : EngineState) (ok : Bool) : SetUp :=
  { chip := { new with binding := reboundBinding fresh ok }, ending := setupEnding ok, draws := 1 }

/-- What the spec decides of the commands on an instance: RESET, RUN and CLEANUP do nothing beyond what the machine
does (41_lifecycle.md R173, R175; 43_synthesis_engine.md R220 c), QUERY is a getter (45_mute_rate_clock.md R302), the table
is rebuilt on a real change of model (42_volume_table.md R204), the null handle edits the one default of SETACTIVE and of
SET_ENGINE (45_mute_rate_clock.md R300, R302) and is an error of SETRATE (R301). -/
def transitions : Transitions where
  afterSetup := settle
  alsoReset _ _ sl := sl
  alsoRun _ _ c := c
  alsoCleanup _ sl := sl
  queryIsGetter := true
  rebuilds old new := old ≠ new
  newMask := newMask
  nullActive new g := { g with defActive := new }
  nullEngine kind g := { g with defEngine := kind }
  nullRate _ _ := none

/-- The code of a status (60_exceptions.md R321). -/
def Status.code : Status → BitVec 8
  | .ok => 0
  | .eInval => 1
  | .eState => 2
  | .eSetup => 3

/-- The order of the checks (60_exceptions.md R328). -/
def checkOrder : List Check := [.frame, .handle, .index, .init, .live, .alignment, .buffer, .binding]

/-- The status of a failed check (60_exceptions.md R322, R327). -/
def checkStatus : Check → Status
  | .frame => .eInval
  | .handle => .eInval
  | .index => .eInval
  | .init => .eState
  | .live => .eState
  | .alignment => .eInval
  | .buffer => .eInval
  | .binding => .eState

/-- The commands that check `G.init` and Live slots (60_exceptions.md R327). -/
def CommandKind.checksLifecycle : CommandKind → Bool
  | .reserved => false
  | .create => true
  | .setActive => true
  | .setEngine => true
  | .setVolModel => true
  | .globalInit => true
  | .globalShutdown => true
  | .write => false
  | .run => false
  | .cycleAdjust => false
  | .reset => false
  | .bufSize => false
  | .configure => false
  | .cleanup => false
  | .setRate => false

/-- The checks a command makes: the frame and the handle always, alignment, sink and binding for RUN alone, the register
index never (60_exceptions.md R322, R327; 10_state.md R29). -/
def checkMade (cmd : CommandKind) : Check → Bool
  | .frame => true
  | .handle => true
  | .index => false
  | .init => cmd.checksLifecycle
  | .live => cmd.checksLifecycle
  | .alignment => cmd = .run
  | .buffer => cmd = .run
  | .binding => cmd = .run

/-- The checks of the spec; a dead handle is an error to the three setters (30_encoding.md R96). -/
def commandChecks : Checks where
  order := checkOrder
  status := checkStatus
  made := checkMade
  deadIsNull := false

/-- The response to a command: the status of its ending, and the result words but for an error, which answers zeros
(00_scope.md R12, 30_encoding.md R93, 60_exceptions.md R321). -/
def answer (_cmd : CommandKind) (e : Ending) (r0 r1 r2 : Word) : Response :=
  match e with
  | .done => ⟨.ok, r0, r1, r2⟩
  | .setupFailed => ⟨.eSetup, r0, r1, r2⟩
  | .failed st => ⟨st, 0, 0, 0⟩

/-- The response frame (30_encoding.md R93). -/
def responseFrame (code : BitVec 8) (r0 r1 r2 : Word) : FrameBits := code ++ (0 : BitVec 24) ++ r0 ++ r1 ++ r2

/-- A response as the 128-bit frame the response port shows (30_encoding.md R93). -/
def Response.toBits (d : Decisions) (r : Response) : FrameBits :=
  d.frames.response (d.ids.statusCode r.status) r.res0 r.res1 r.res2

end Sys2Proof.Machine
end

