-- ==== Sys2Proof/Machine/Operands.lean ====
section
/-! DEFINITION. Operand forms: the chip handle, register indices and their queues, engine and model ids, clamping,
the register fields, and result words (30_encoding.md R95, R96, R98; 10_state.md R22 to R28). -/

namespace Sys2Proof.Machine

open Sys2Proof.Config

/-- The slot a handle names: none for the null handle and for a number that names no slot (30_encoding.md R92). -/
def State.slot? (s : State) : ChipSel → Option Slot
  | .null => none
  | .slot n => s.chips[n.val]?

/-- The instance of a slot, if it is Live (10_state.md R48). -/
def Slot.chip? (sl : Slot) : Option Chip :=
  match sl.life with
  | .live c => some c
  | .absent => none
  | .destroyed => none

/-- The Live instance a handle names (30_encoding.md R96, 10_state.md R48). -/
def State.chip? (s : State) (sel : ChipSel) : Option Chip := (s.slot? sel).bind Slot.chip?

/-- Some instance is Live (41_lifecycle.md R171). -/
def State.anyLive (s : State) : Bool := s.chips.any fun sl => sl.chip?.isSome

/-- The implemented register of a port index; 14 and 15 have none (10_state.md R29). -/
def regOfPort (r : PortIndex) : Option Reg := if h : r.val < 14 then some ⟨r.val, h⟩ else none

/-- The register index map of the spec (10_state.md R22). -/
def registerMap : RegisterMap where
  tonePeriodLow
    | .a => 0
    | .b => 2
    | .c => 4
  tonePeriodHigh
    | .a => 1
    | .b => 3
    | .c => 5
  noisePeriod := 6
  mixer := 7
  volume
    | .a => 8
    | .b => 9
    | .c => 10
  envPeriodLow := 11
  envPeriodHigh := 12
  envShape := 13

/-- The register holds something of the three channels: a tone period or a volume (40_register_write.md R131). -/
def RegisterMap.ofChannels (m : RegisterMap) (i : Reg) : Bool :=
  [Channel.a, .b, .c].any fun ch => i = m.tonePeriodLow ch || i = m.tonePeriodHigh ch || i = m.volume ch

/-- The queues a register's events go to, in order: the source's routing rule, with the order of a mixer write's two
(40_register_write.md R131). -/
def Decisions.queuesOf (d : Decisions) (i : Reg) : List QueueId :=
  let m := d.map
  if m.ofChannels i then [.tone]
  else if i = m.mixer then d.writes.mixerQueues
  else if i = m.noisePeriod then [.noise]
  else if i = m.envPeriodLow ∨ i = m.envPeriodHigh ∨ i = m.envShape then [.env]
  else []

/-- Route(r), in order; nothing for the reserved indices (40_register_write.md R131). -/
def route (d : Decisions) (r : PortIndex) : List QueueId :=
  match regOfPort r with
  | none => []
  | some i => d.queuesOf i

/-- What an engine-id or model-id operand asks for (30_encoding.md R98). -/
inductive IdRequest (α : Type) where
  | default
  | query
  | known (k : α)
  | unknown
deriving DecidableEq, Repr

/-- The ids of the engine kinds (30_encoding.md R98). -/
def engineId : EngineKind → Word
  | .pulse => 1
  | .stepBandlimited => 2
  | .debugDump => 3

/-- The ids of the volume models (30_encoding.md R98). -/
def modelId : VolModel → Word
  | .nonlinear => 1
  | .linear => 2

/-- The QUERY id of both kinds (30_encoding.md R98). -/
def queryId : Word := 0xFFFFFFFF

/-- What an id asks for among the members of a set with the given ids (30_encoding.md R98). -/
def Identifiers.request {α : Type} (I : Identifiers) (members : List α) (idOf : α → Word) (id : Word) : IdRequest α :=
  if id = I.defaultId then .default
  else if id = I.queryId then .query
  else
    match members.find? fun k => id = idOf k with
    | some k => .known k
    | none => .unknown

/-- What an engine id asks for (30_encoding.md R98). -/
def Identifiers.engineRequest (I : Identifiers) (id : Word) : IdRequest EngineKind :=
  I.request [.pulse, .stepBandlimited, .debugDump] I.engineId id

/-- What a volume-model id asks for (30_encoding.md R98). -/
def Identifiers.modelRequest (I : Identifiers) (id : Word) : IdRequest VolModel :=
  I.request [.nonlinear, .linear] I.modelId id

/-- ResolveEngine(id, current): the kind, and the notice of an unknown id (45_mute_rate_clock.md R302). -/
def resolveEngine (d : Decisions) (default current : EngineKind) (id : Word) : EngineKind × List Notice :=
  match d.ids.engineRequest id with
  | .default => (default, [])
  | .query => (current, [])
  | .known k => (k, [])
  | .unknown => (d.ids.unknownEngine default current, d.reports.engine id)

/-- The model an id selects when `current` is in force, and the notice of an unknown id (42_volume_table.md R204). -/
def resolveModel (d : Decisions) (current : VolModel) (id : Word) : VolModel × List Notice :=
  match d.ids.modelRequest id with
  | .default => (current, [])
  | .query => (current, [])
  | .known m => (m, [])
  | .unknown => (d.ids.unknownModel current, d.reports.volModel id)

/-- clamp(v, lo, hi) (00_scope.md R11). -/
def clamp (v lo hi : Nat) : Nat := if v < lo then lo else if hi < v then hi else v

/-- A number as a result word: itself where it fits 32 bits, a free value where it does not (30_encoding.md R93;
log 7). -/
def resultWord (n : Nat) : Word := if n < 2 ^ 32 then BitVec.ofNat 32 n else freeResultWord n

/-- The bit fields of the registers of the spec (10_state.md R23 to R28). -/
def bitFields : BitFields where
  tonePeriod high low := high.extractLsb' 0 4 ++ low
  noisePeriod b := b.extractLsb' 0 5
  toneDisabled := toneDisabled
  noiseDisabled := noiseDisabled
  envelopeEnabled := envelopeEnabled
  fixedVolume b := b.extractLsb' 0 4
  envPeriod high low := high ++ low
  shape b := b.extractLsb' 0 4
  shapeHold := shapeHold
  shapeAlt := shapeAlt
  shapeAtt := shapeAtt
  shapeCont := shapeCont

/-- TP(ch): the tone period field (10_state.md R23). -/
def toneField (d : Decisions) (x : RegFile) (ch : Channel) : BitVec 12 :=
  d.fields.tonePeriod (x.get (d.map.tonePeriodHigh ch)) (x.get (d.map.tonePeriodLow ch))

/-- NP: the noise period field (10_state.md R24). -/
def noiseField (d : Decisions) (x : RegFile) : BitVec 5 := d.fields.noisePeriod (x.get d.map.noisePeriod)

/-- EP: the envelope period field (10_state.md R27). -/
def envField (d : Decisions) (x : RegFile) : BitVec 16 :=
  d.fields.envPeriod (x.get d.map.envPeriodHigh) (x.get d.map.envPeriodLow)

/-- The envelope shape (10_state.md R28). -/
def shapeField (d : Decisions) (x : RegFile) : BitVec 4 := d.fields.shape (x.get d.map.envShape)

end Sys2Proof.Machine
end

