-- ==== Sys2Proof/Machine/Ops.lean ====
section
/-! DEFINITION. The named operations: ending a command (return, raise, fail_setup: 00_scope.md R12), slots and notices,
the event queues and the arena, the engine hooks, the volume table, the sample count, and fetching a frame. Operations
that depend on an open parameter take the record of parameters as an argument, those that depend on something the spec
decides take the design. -/

namespace Sys2Proof.Machine

open Sys2Proof.Config

/-! ## Ending a command -/

/-- A step of PSG3 always yields a next state (60_exceptions.md R320, R330). -/
abbrev Result := Host.Outcome State Fault Refusal

/-- Ends a command: `return`, `fail_setup` or `raise`, with the response the design gives it (00_scope.md R12). A `raise`
is called on the state before the command, which so stays as it is (60_exceptions.md R321, R329); a `fail_setup` keeps
the state writes made so far. -/
def State.ends (s : State) (D : Design) (cmd : CommandKind) (e : Ending) (r0 r1 r2 : Word := 0) : State :=
  { s with resp := some (D.decisions.reports.answer cmd e r0 r1 r2) }

/-- Appends diagnostic notices (00_scope.md R12, 60_exceptions.md R334). -/
def State.notices (s : State) (ds : List Notice) : State := { s with diag := s.diag ++ ds }

/-! ## Checks -/

/-- Which of the conditions under which a command fails hold (60_exceptions.md R328). A frame that reached a command is
not reserved. -/
structure Failing where
  handle : Bool := false
  index : Bool := false
  init : Bool := false
  live : Bool := false
  alignment : Bool := false
  buffer : Bool := false
  binding : Bool := false
deriving DecidableEq, Repr

/-- Whether a condition holds. -/
def Failing.at (f : Failing) : Check → Bool
  | .frame => false
  | .handle => f.handle
  | .index => f.index
  | .init => f.init
  | .live => f.live
  | .alignment => f.alignment
  | .buffer => f.buffer
  | .binding => f.binding

/-- The status of the first check in order that the command makes and that fails; none if all pass (60_exceptions.md
R328). -/
def Checks.verdict (C : Checks) (cmd : CommandKind) (f : Failing) : Option Status :=
  (C.order.find? fun k => C.made cmd k && f.at k).map C.status

/-- A command behind its checks (60_exceptions.md R328, R329). -/
def State.guarded (s : State) (D : Design) (cmd : CommandKind) (f : Failing) (body : State) : State :=
  match D.decisions.checks.verdict cmd f with
  | some st => s.ends D cmd (.failed st)
  | none => body

/-- What fails of a command on an instance: a handle that names none, no engine bound, and the rest as given. -/
def State.failing (s : State) (sel : ChipSel) (f : Failing) : Failing :=
  { f with
    handle := (s.chip? sel).isNone
    binding := (s.chip? sel).any fun c => c.binding.engine?.isNone }

/-- A command that needs a Live instance, behind its checks (30_encoding.md R96, 60_exceptions.md R322). Without one it
fails as the handle check does, even if that check is not made. -/
def State.onChip (s : State) (D : Design) (cmd : CommandKind) (sel : ChipSel) (f : Failing) (body : Chip → State) :
    State :=
  s.guarded D cmd (s.failing sel f) <|
    match s.chip? sel with
    | none => s.ends D cmd (.failed (D.decisions.checks.status .handle))
    | some c => body c

/-- The handle check of the three setters: the null handle or a Live instance (30_encoding.md R96). -/
def State.handleOk (s : State) (sel : ChipSel) : Bool := sel = .null || (s.chip? sel).isSome

/-- The handle one of the three setters goes by: the null handle for a dead one, in a design that takes it so
(30_encoding.md R96). -/
def State.setterTarget (s : State) (D : Design) (sel : ChipSel) : ChipSel :=
  if D.decisions.checks.deadIsNull && !s.handleOk sel then .null else sel

/-- What fails of a setter: a dead handle that is not null, a block not initialised (42_volume_table.md R204,
45_mute_rate_clock.md R300, R302). -/
def State.setterFailing (s : State) (sel : ChipSel) : Failing :=
  { s.failing sel { init := !s.g.init } with handle := !s.handleOk sel }

/-! ## Slots -/

/-- Changes the slot a handle names; nothing for a handle that names none. -/
def State.modifySlot (s : State) (sel : ChipSel) (f : Slot → Slot) : State :=
  match sel with
  | .null => s
  | .slot n => { s with chips := s.chips.modify n.val f }

/-- Puts a Live instance into the slot a handle names; its streams stay. -/
def State.setChip (s : State) (sel : ChipSel) (c : Chip) : State :=
  s.modifySlot sel fun sl => { sl with life := .live c }

/-- Appends to the streams of a slot: MemWrite(PCM, …) and MemWrite(DUMP, …) (00_scope.md R12). -/
def State.emit (s : State) (sel : ChipSel) (pcm : List Sample) (dump : List (BitVec 64)) : State :=
  s.modifySlot sel fun sl => { sl with pcm := sl.pcm ++ pcm, dump := sl.dump ++ dump }

/-- Replaces `G` and the slots. -/
def State.withGlobal (s : State) (p : Global × List Slot) : State := { s with g := p.1, chips := p.2 }

/-- Every slot Absent; the streams already emitted stay (41_lifecycle.md R170, R171; log 11). -/
def absentSlots (l : List Slot) : List Slot := l.map fun sl => { sl with life := .absent }

/-- Takes environment draws. -/
def State.draw (s : State) (n : Nat := 1) : State := { s with draws := s.draws + n }

/-! ## Queues and the arena -/

/-- The queue of an id. -/
def Queues.get (q : Queues) : QueueId → List Event
  | .tone => q.tone
  | .noise => q.noise
  | .env => q.env

/-- Replaces the queue of an id. -/
def Queues.set (q : Queues) (id : QueueId) (l : List Event) : Queues :=
  match id with
  | .tone => { q with tone := l }
  | .noise => { q with noise := l }
  | .env => { q with env := l }

/-- The empty queues. -/
def Queues.empty : Queues := { tone := [], noise := [], env := [] }

/-- How many events are queued. -/
def Queues.count (q : Queues) : Nat := q.tone.length + q.noise.length + q.env.length

/-- Applies a map to every queued event. -/
def Queues.mapEvents (q : Queues) (f : Event → Event) : Queues :=
  { tone := q.tone.map f, noise := q.noise.map f, env := q.env.map f }

/-- One append: the event at the back of a queue, one slot taken (40_register_write.md R132, 20_memory.md R67). -/
def Chip.append (e : Event) (c : Chip) (id : QueueId) : Chip :=
  { c with queues := c.queues.set id (c.queues.get id ++ [e]), poolUsed := c.poolUsed + 1 }

/-- Counts dropped appends (40_register_write.md R132). -/
def Chip.countDrops (D : Design) (c : Chip) (n : Nat) : Chip :=
  { c with overflowCount := (D.decisions.writes.countDrop D.decisions.widths.overflow)^[n] c.overflowCount }

/-- Enqueue(c, q, e) for the queues an event goes to, in order (40_register_write.md R130, R132). -/
def Chip.enqueue (P : Params) (D : Design) (c : Chip) (ids : List QueueId) (e : Event) : Chip :=
  let r := D.decisions.writes.accept (P.poolCap - c.poolUsed) ids
  (r.1.foldl (Chip.append e) c).countDrops D r.2

/-! ## Registers and engine hooks -/

/-- RESET_REG (10_state.md R46). -/
def resetReg : RegFile :=
  #v[0xFF, 0x0F, 0xFF, 0x0F, 0xFF, 0x0F, 0x1F, 0xFF, 0x00, 0x00, 0x00, 0xFF, 0xFF, 0x0A]

/-- The built-in defaults of the spec (10_state.md R46, 92_eei_decisions.md D4 to D7, D24); LFSR_INIT = 1. -/
def builtinDefaults : Defaults where
  resetReg := resetReg
  builtinEngine := .pulse
  builtinVolModel := .linear
  builtinActive := 0b111
  lfsrInit := 1

/-- The state engineReset sets (41_lifecycle.md R176, 10_state.md R42). -/
def engineReset (d : Decisions) : EngineState :=
  { tone := ⟨⟨0, false⟩, ⟨0, false⟩, ⟨0, false⟩⟩
    noiseCnt := 0
    lfsr := d.defaults.lfsrInit
    envCnt := 0
    envPos := 0
    filter := 0 }

/-- engineSetup(c): the answer of the next draw (41_lifecycle.md R177, 60_exceptions.md R326). -/
def engineSetup (P : Params) (s : State) (kind : EngineKind) (rate : Nat) : Bool := P.setupOk s.draws kind rate

/-- Engine setup by a command with the given answer, from the instance before the command and the one with the negotiated
values (41_lifecycle.md R172, R174; 60_exceptions.md R325). -/
def Chip.afterSetup (D : Design) (cmd : CommandKind) (old new : Chip) (ok : Bool) : SetUp :=
  D.decisions.transitions.afterSetup cmd old new D.model.engineReset ok

/-- A fresh instance before engine setup, with the power-on registers and the global defaults (41_lifecycle.md R172). -/
def Chip.blank (P : Params) (d : Decisions) (g : Global) : Chip :=
  { sh := d.defaults.resetReg
    x := d.defaults.resetReg
    queues := Queues.empty
    poolUsed := 0
    overflowCount := 0
    activeMask := g.defActive
    muteRep := d.levels.muteLut g.defActive
    engineKind := g.defEngine
    binding := .unconfigured
    sampleRateHz := P.rateAdjust g.defEngine g.defRate
    clockHz := P.clockHz }

/-- A fresh instance set up with the given answer (41_lifecycle.md R172). -/
def Chip.fresh (P : Params) (d : Decisions) (m : GeneratorModel) (g : Global) (ok : Bool) : SetUp :=
  d.transitions.afterSetup .create (Chip.blank P d g) (Chip.blank P d g) m.engineReset ok

/-- `G` after GLOBAL_SHUTDOWN: `init` cleared, everything else unspecified, hence free (41_lifecycle.md R171; log 3). -/
def Global.afterShutdown (draw : Nat) : Global :=
  { init := false
    volModel := freeVolModel draw
    volTable := Vector.ofFn fun c => Vector.ofFn fun b => Vector.ofFn fun a => freeVolEntry draw a b c
    defEngine := freeEngine draw
    defRate := freeRate draw
    defClock := freeClock draw
    defActive := freeActive draw }

/-- CREATE of the spec: a fresh instance, empty streams, one engine setup, the id of the engine, the clock and the rate as
result words (41_lifecycle.md R172). -/
def creation (d : Decisions) (m : GeneratorModel) (P : Params) (g : Global) (setup : EngineKind → Nat → Bool)
    (_old : Slot) : Created :=
  let c := Chip.blank P d g
  let r := Chip.fresh P d m g (setup c.engineKind c.sampleRateHz)
  { slot := { life := .live r.chip, pcm := [], dump := [] }
    ending := r.ending
    res0 := d.ids.engineId c.engineKind
    res1 := resultWord c.clockHz
    res2 := resultWord c.sampleRateHz
    draws := r.draws }

/-! ## The volume table -/

/-- C(l), the contribution curve of a model (42_volume_table.md R202, R203). -/
def contribution (P : Params) : VolModel → Fin 32 → Nat
  | .linear, l => l.val
  | .nonlinear, l => P.curve l

/-- CMAX = C(31) (42_volume_table.md R201). -/
def contributionMax (P : Params) (m : VolModel) : Nat := contribution P m 31

/-- One entry as a number, for the contribution curve C: floor(peak × (C(a) + C(b) + C(c)) / (3 × CMAX))
(42_volume_table.md R201). -/
def tableEntry (C : Fin 32 → Nat) (peak : Nat) (a b c : Fin 32) : Nat := peak * (C a + C b + C c) / (3 * C 31)

/-- One entry of the table of a model and a peak level as a number (42_volume_table.md R200, R201). -/
def volEntry (P : Params) (d : Decisions) (m : VolModel) (peak : Nat) (a b c : Fin 32) : Nat :=
  d.levels.tableEntry (contribution P m) peak a b c

/-- A number as a sample of the given width, two's complement (00_scope.md R8). -/
def narrow (bits : Nat) (v : Int) : Sample := v.bmod (2 ^ bits)

/-- buildVolumeTable(model, peakLevel) (42_volume_table.md R200, R201). -/
def buildVolumeTable (P : Params) (d : Decisions) (m : VolModel) (peak : Nat) : VolTable :=
  Vector.ofFn fun c => Vector.ofFn fun b => Vector.ofFn fun a =>
    narrow d.widths.sample (volEntry P d m peak a b c)

/-- The entry of a triple of levels (10_state.md R40). -/
def VolTable.entry (t : VolTable) (la lb lc : Level) : Sample := ((t.get lc.toFin).get lb.toFin).get la.toFin

/-- The table index of a triple of levels, `la | lb << 5 | lc << 10` (10_state.md R40, 44_generators.md R266). -/
def packLevels (la lb lc : Level) : BitVec 15 := lc ++ lb ++ la

/-- The levels of A, B, C of a table index (10_state.md R40). -/
def unpackLevels (idx : BitVec 15) : Level × Level × Level :=
  (idx.extractLsb' 0 5, idx.extractLsb' 5 5, idx.extractLsb' 10 5)

/-- MemRead(VOL, idx, 16) (00_scope.md R12, 20_memory.md R60). -/
def VolTable.read (d : Decisions) (t : VolTable) (idx : BitVec 15) : Sample :=
  let l := d.levels.unpack idx
  t.entry l.1 l.2.1 l.2.2

/-! ## Sample count -/

/-- floor(N × rate / clock), on the exact product, for every engine (43_synthesis_engine.md R225, R229). -/
def sampleCount (elapsed rate clock : Nat) : Nat := elapsed * rate / clock

/-- engineBufferSize(c, N) (43_synthesis_engine.md R225). -/
def Chip.bufferSize (D : Design) (c : Chip) (elapsed : Nat) : Nat :=
  D.sampleCount c elapsed

/-- samplesWritten(c, N): how many samples a run yields and RUN answers (43_synthesis_engine.md R220). -/
def Chip.samplesWritten (D : Design) (c : Chip) (elapsed : Nat) : Nat := D.written c.engineKind (c.bufferSize D elapsed)

/-! ## Events -/

/-- The stamps applied before tick `k` is mixed: those up to its cycle 8k (43_synthesis_engine.md R223). -/
def tickDue (k : Nat) : Int := 8 * k

/-- The stamps applied at the end of a span of N: those below N (43_synthesis_engine.md R223). -/
def tailDue (elapsed : Nat) : Int := (elapsed : Int) - 1

/-- Tone before noise before envelope among equal stamps (43_synthesis_engine.md R226). -/
def queueRank : QueueId → Nat
  | .tone => 0
  | .noise => 1
  | .env => 2

/-- The moment of effect and the ties of the spec (43_synthesis_engine.md R223, R226). -/
def sequencing : Sequencing where
  due := tickDue
  last := tailDue
  rank := queueRank
  due_le_last k elapsed h := by
    unfold tickDue tailDue
    omega
  last_lt elapsed := by
    unfold tailDue
    omega
  rank_inj id id' h := by cases id <;> cases id' <;> first | rfl | exact absurd h (by decide)

/-- Each append judged on its own: the first queues get the event while there is room, every other append counts one drop
(40_register_write.md R132). -/
def acceptEach (room : Nat) (ids : List QueueId) : List QueueId × Nat := (ids.take room, ids.length - room)

/-- What the spec decides of writes: the byte unmasked (40_register_write.md R130), the mixer's events to the tone queue
first (R131), each append judged on its own and one drop per failed append (R132), the slots of consumed events reclaimed
in bulk (R149). -/
def writes : Writes where
  stored _ v := v
  mixerQueues := [.tone, .noise]
  accept := acceptEach
  countDrop := countDrop
  reclaim _ q := q.count
  accept_one room id := by
    cases room <;> simp [acceptEach]
  accept_sublist room ids := List.take_sublist room ids
  accept_le room ids := by
    simp [acceptEach, List.length_take]

/-- Power-on, GLOBAL_INIT and GLOBAL_SHUTDOWN of the spec: every slot Absent; `G.init` = 0, the built-in defaults, or
`G.init` = 0 and the rest unspecified (70_reset_and_hazards.md R352; 41_lifecycle.md R170, R171; log 3, log 4). -/
def lifetime : Lifetime where
  powerOn P := (Global.powerOn P, List.replicate P.nchip Slot.absent)
  opened _ new l := (new, absentSlots l)
  closed draw _ l := (Global.afterShutdown draw, absentSlots l)
  powerOn_length _ := List.length_replicate
  opened_length _ _ _ := List.length_map _
  closed_length _ _ _ := List.length_map _

/-- The queue field of a dump record (30_encoding.md R102). -/
def QueueId.code : QueueId → BitVec 2
  | .tone => 0
  | .noise => 1
  | .env => 2

/-- A stamp as 32 bits two's complement; free where it does not fit the width of stamps (30_encoding.md R102; log 8). -/
def stampField (bits : Nat) (ts : Int) : Word := if FitsSigned bits ts then BitVec.ofInt 32 ts else freeDumpStamp ts

/-- The dump record of an applied event (30_encoding.md R102). -/
def dumpRecord (bits : Nat) (id : QueueId) (e : Event) : BitVec 64 :=
  stampField bits e.ts ++ (0 : BitVec 16) ++ id.code ++ (0 : BitVec 2) ++ BitVec.ofNat 4 e.reg.val ++ e.val

/-! ## The command port -/

/-- Takes the next frame off the command port; none when the host has put none there (00_scope.md R10; log 5). -/
def fetch (s : State) : Option (FrameBits × State) :=
  match s.cmds with
  | [] => none
  | w :: rest => some (w, { s with cmds := rest })

/-- Puts a frame on the command port, next to be taken. -/
def State.putFrame (s : State) (w : FrameBits) : State := { s with cmds := w :: s.cmds }

/-- The answer to a reserved frame: E_INVAL, no state change (30_encoding.md R97). -/
def State.raiseReserved (D : Design) (s : State) : State :=
  s.ends D .reserved (.failed (D.decisions.checks.status .frame))

end Sys2Proof.Machine
end

