-- ==== Sys2Proof/Machine/Generators.lean ====
section
/-! DEFINITION. The tone, noise and envelope generators, the mixer (44_generators.md), and PulseOut. -/

namespace Sys2Proof.Machine

open Sys2Proof.Config

/-- A period of 0 counts as 1 (44_generators.md R261 to R263). -/
def atLeastOne (n : Nat) : Nat := max 1 n

/-- One tick of a tone generator with the given half-period (44_generators.md R261). -/
def stepTone (period : Nat) (g : ToneGen) : ToneGen :=
  if period ≤ g.count.toNat + 1 then { count := 0, phase := !g.phase } else { g with count := g.count + 1 }

/-- The tone output bit, high after engine reset (44_generators.md R261). -/
def ToneGen.out (g : ToneGen) : Bool := !g.phase

/-- One shift of the noise register, taps at bits 0 and 3 (44_generators.md R262). -/
def shiftLfsr (v : BitVec 17) : BitVec 17 :=
  (v >>> 1) ||| ((((v ^^^ (v >>> 3)) &&& 1)) <<< 16)

/-- One tick of the noise generator (44_generators.md R262). -/
def stepNoise (period : Nat) (e : EngineState) : EngineState :=
  if 2 * period ≤ e.noiseCnt.toNat + 1 then { e with noiseCnt := 0, lfsr := shiftLfsr e.lfsr }
  else { e with noiseCnt := e.noiseCnt + 1 }

/-- The noise output bit (44_generators.md R262). -/
def EngineState.noiseOut (e : EngineState) : Bool := e.lfsr.getLsbD 0

/-- One tick of the envelope generator (44_generators.md R263). -/
def stepEnvelope (period : Nat) (e : EngineState) : EngineState :=
  if period ≤ e.envCnt.toNat + 1 then { e with envCnt := 0, envPos := e.envPos + 1 }
  else { e with envCnt := e.envCnt + 1 }

/-- The half-period of a channel's tone in ticks (44_generators.md R261). -/
def tonePeriod (d : Decisions) (x : RegFile) (ch : Channel) : Nat := atLeastOne (toneField d x ch).toNat

/-- The noise period NP (44_generators.md R262). -/
def noisePeriod (d : Decisions) (x : RegFile) : Nat := atLeastOne (noiseField d x).toNat

/-- The envelope period EP (44_generators.md R263). -/
def envPeriod (d : Decisions) (x : RegFile) : Nat := atLeastOne (envField d x).toNat

/-- The three tone generators' tick. -/
def stepTones (d : Decisions) (x : RegFile) (e : EngineState) : EngineState :=
  { e with tone := ⟨stepTone (tonePeriod d x .a) e.tone.a, stepTone (tonePeriod d x .b) e.tone.b,
                    stepTone (tonePeriod d x .c) e.tone.c⟩ }

/-- StepGenerators(c): tone A, B, C, noise, envelope (44_generators.md R260). -/
def stepGenerators (d : Decisions) (x : RegFile) (e : EngineState) : EngineState :=
  stepEnvelope (envPeriod d x) (stepNoise (noisePeriod d x) (stepTones d x e))

/-- The restart of the envelope by an applied event for register 13 (44_generators.md R263). -/
def EngineState.restartEnvelope (e : EngineState) : EngineState := { e with envPos := 0, envCnt := 0 }

/-- ShapeLevel(shape, p), 0 to 31 (44_generators.md R264). -/
def shapeLevel (f : BitFields) (shape : BitVec 4) (p : Nat) : Nat :=
  let ph := p / 32
  let r := p % 32
  let ramp (up : Bool) : Nat := if up then r else 31 - r
  if ph = 0 then ramp (f.shapeAtt shape)
  else if !f.shapeCont shape then 0
  else if f.shapeHold shape then (if f.shapeAtt shape != f.shapeAlt shape then 31 else 0)
  else ramp (f.shapeAtt shape != (f.shapeAlt shape && ph % 2 == 1))

/-- LevelFixed(V) = 0 for 0, else 2V + 1 (44_generators.md R265). -/
def levelFixed (v : BitVec 4) : Level := if v = 0 then 0 else BitVec.ofNat 5 (2 * v.toNat + 1)

/-- LevelEnv(e) = e (44_generators.md R265). -/
def levelEnv (e : Nat) : Level := BitVec.ofNat 5 e

/-- lvl(ch): the level of a channel before the gate (44_generators.md R265). -/
def channelLevel (d : Decisions) (x : RegFile) (e : EngineState) (ch : Channel) : Level :=
  let v := x.get (d.map.volume ch)
  if d.fields.envelopeEnabled v then d.levels.levelEnv (shapeLevel d.fields (shapeField d x) e.envPos)
  else d.levels.levelFixed (d.fields.fixedVolume v)

/-- gate(ch) (44_generators.md R266). -/
def channelGate (d : Decisions) (x : RegFile) (e : EngineState) (ch : Channel) : Bool :=
  let mix := x.get d.map.mixer
  ((e.tone.get ch).out || d.fields.toneDisabled mix ch) && (e.noiseOut || d.fields.noiseDisabled mix ch)

/-- idx(ch): the level where the gate is open, else 0 (44_generators.md R266). -/
def gatedLevel (d : Decisions) (x : RegFile) (e : EngineState) (ch : Channel) : Level :=
  if channelGate d x e ch then channelLevel d x e ch else 0

/-- The packed index of the three gated levels (44_generators.md R266). -/
def packedLevels (d : Decisions) (x : RegFile) (e : EngineState) : BitVec 15 :=
  d.levels.pack (gatedLevel d x e .a) (gatedLevel d x e .b) (gatedLevel d x e .c)

/-- MixSample(c) (44_generators.md R266, 42_volume_table.md R206). -/
def mixSample (d : Decisions) (t : VolTable) (muteRep : BitVec 15) (x : RegFile) (e : EngineState) : Sample :=
  t.read d (packedLevels d x e &&& muteRep)

/-- PulseOut(s, K, n)[j] = s[floor(j × K / n)] (43_synthesis_engine.md R231). -/
def pulseOut (s : List Sample) (k n : Nat) : List Sample := (List.range n).map fun j => s.getD (j * k / n) 0

/-- The samples of a DebugDump run: silence (43_synthesis_engine.md R229). -/
def debugOut (n : Nat) : List Sample := List.replicate n 0

/-- An applied event restarts the envelope exactly if it is for register 13 (43_synthesis_engine.md R224, 44_generators.md
R263). -/
def onEvent (d : Decisions) (r : Reg) (e : EngineState) : EngineState :=
  if r = d.map.envShape then e.restartEnvelope else e

/-- Levels, mute representation and table index of the spec (44_generators.md R265, 10_state.md R36, R40). -/
def levels : Levels where
  levelFixed := levelFixed
  levelEnv := levelEnv
  muteLut := muteLut
  pack := packLevels
  unpack := unpackLevels
  tableEntry := tableEntry

/-- The engine has generators; DebugDump has none to step, mix or restart (43_synthesis_engine.md R227 to R229). -/
def generates : EngineKind → Bool
  | .pulse => true
  | .stepBandlimited => true
  | .debugDump => false

/-- The generator model of the spec (44_generators.md, opening): the same for Pulse and StepBandlimited, none for DebugDump,
and a muted channel's generators run on (43_synthesis_engine.md R228, R229; 45_mute_rate_clock.md R300 e). -/
def generatorModel (d : Decisions) : GeneratorModel where
  stepGenerators kind _ x e := if generates kind then stepGenerators d x e else e
  mixSample kind t muteRep x e := if generates kind then mixSample d t muteRep x e else 0
  engineReset := engineReset d
  onEvent kind r _ e := if generates kind then onEvent d r e else e

end Sys2Proof.Machine
end

