-- ==== Sys2Proof/Machine/Decided.lean ====
section
/-! DEFINITION. The level-D configuration of PSG3: the values the spec decides, put together (00_scope.md R5, R8;
92_eei_decisions.md). The meanings run the machine with `design`; a claim can put any other design in its place. -/

namespace Sys2Proof.Machine

open Sys2Proof.Config

/-- Identifier values, status codes and coercions of the spec (30_encoding.md R98, 60_exceptions.md R321, R324). -/
def identifiers : Identifiers where
  defaultId := 0
  queryId := queryId
  engineId := engineId
  modelId := modelId
  statusCode := Status.code
  unknownEngine dflt _ := dflt
  unknownModel current := current

/-- The frames and the dump record of the spec, one for each applied event (30_encoding.md R92, R93, R102). -/
def frames : Frames where
  command := decode
  response := responseFrame
  record bits id e := [dumpRecord bits id e]

/-- The widths of the spec (00_scope.md R8). -/
def widths : Widths where
  stamp := stampBits
  sample := sampleBits
  overflow := overflowBits

/-- The responses of the spec, its notices, one each, the number of samples as RUN's answer and the overflow count as CLEANUP's
(60_exceptions.md R334, 43_synthesis_engine.md R220, 41_lifecycle.md R175). -/
def reports : Reports where
  answer := answer
  clock requested := [.clock requested]
  engine id := [.engine id]
  volModel id := [.volModel id]
  overflow chip n := [.overflow chip n]
  runWord n := resultWord n
  cleanupWord n := resultWord n

/-- The values the spec decides (00_scope.md R8, 92_eei_decisions.md). -/
def decisions : Decisions where
  widths := widths
  map := registerMap
  fields := bitFields
  levels := levels
  defaults := builtinDefaults
  ids := identifiers
  frames := frames
  checks := commandChecks
  writes := writes
  sequence := sequencing
  lifetime := lifetime
  transitions := transitions
  reports := reports

/-- The design of the spec (00_scope.md R5). -/
def design : Design where
  decisions := decisions
  generators := generatorModel
  creation := creation
  sampleCount c elapsed := sampleCount elapsed c.sampleRateHz c.clockHz
  written _ n := n
  pulseOut filter s k n := (pulseOut s k n, filter)
  debugOut := debugOut
  layout _ _ _ _ out := out
  pulseOut_length _ _ _ _ := by simp [pulseOut]
  debugOut_length _ := by simp [debugOut]

end Sys2Proof.Machine
end

