-- ==== Sys2Proof/Machine/Lifecycle.lean ====
section
/-! DEFINITION. The chip lifecycle: GLOBAL_INIT, GLOBAL_SHUTDOWN, CREATE, RESET, CONFIGURE, CLEANUP
(41_lifecycle.md). -/

namespace Sys2Proof.Machine

open Sys2Proof.Config

/-! ## Global initialisation and shutdown -/

/-- `G` after GLOBAL_INIT: BUILTIN_VOLMODEL, BUILTIN_ENGINE, RATE_DEFAULT, CLOCK_HZ, BUILTIN_ACTIVE
(41_lifecycle.md R170, 10_state.md R46). -/
def Global.initial (P : Params) (D : Design) : Global :=
  let b := D.decisions.defaults
  { init := true
    volModel := b.builtinVolModel
    volTable := buildVolumeTable P D.decisions b.builtinVolModel P.peakLevel
    defEngine := b.builtinEngine
    defRate := P.rateDefault
    defClock := P.clockHz
    defActive := b.builtinActive }

/-- GLOBAL_INIT() (41_lifecycle.md R170). -/
def globalInit (P : Params) (D : Design) (s : State) : State :=
  s.guarded D .globalInit { init := s.g.init }
    ((s.withGlobal (D.decisions.lifetime.opened s.g (Global.initial P D) s.chips)).ends D .globalInit .done)

/-- GLOBAL_SHUTDOWN() (41_lifecycle.md R171). -/
def globalShutdown (D : Design) (s : State) : State :=
  s.guarded D .globalShutdown { init := !s.g.init, live := s.anyLive }
    ((s.withGlobal (D.decisions.lifetime.closed s.draws s.g s.chips)).draw.ends D .globalShutdown .done)

/-! ## Creating an instance -/

/-- What fails of CREATE: a handle that names no slot, a block not initialised, a Live slot (41_lifecycle.md R172). -/
def State.createFailing (s : State) (sel : ChipSel) : Failing :=
  { handle := (s.slot? sel).isNone, init := !s.g.init, live := (s.chip? sel).isSome }

/-- CREATE(chipsel) (41_lifecycle.md R172). -/
def create (P : Params) (D : Design) (sel : ChipSel) (s : State) : State :=
  s.guarded D .create (s.createFailing sel) <|
    match s.slot? sel with
    | none => s.ends D .create (.failed (D.decisions.checks.status .handle))
    | some sl =>
      let r := D.create P s.g (engineSetup P s) sl
      ((s.draw r.draws).modifySlot sel fun _ => r.slot).ends D .create r.ending r.res0 r.res1 r.res2

/-! ## Reset -/

/-- The binding after RESET: the bound engine is reset, Running becomes Configured (41_lifecycle.md R173, R180). -/
def Binding.afterReset (D : Design) : Binding → Binding
  | .unconfigured => .unconfigured
  | .configured _ => .configured D.model.engineReset
  | .running _ => .configured D.model.engineReset

/-- RESET on a Live instance (41_lifecycle.md R173). -/
def Chip.reset (D : Design) (c : Chip) : Chip :=
  { c with
    sh := D.decisions.defaults.resetReg
    x := D.decisions.defaults.resetReg
    queues := Queues.empty
    poolUsed := 0
    overflowCount := 0
    binding := c.binding.afterReset D }

/-- RESET on the slot of a Live instance (41_lifecycle.md R173). -/
def Slot.reset (D : Design) (atCycle : Nat) (c : Chip) (sl : Slot) : Slot :=
  D.decisions.transitions.alsoReset atCycle sl { sl with life := .live (c.reset D) }

/-- RESET(chipsel, atCycle); in the spec's design `atCycle` has no effect (41_lifecycle.md R173 d). -/
def reset (D : Design) (sel : ChipSel) (atCycle : Nat) (s : State) : State :=
  s.onChip D .reset sel {} fun c => (s.modifySlot sel (Slot.reset D atCycle c)).ends D .reset .done

/-! ## Configure -/

/-- The instance after an engine has been released, chosen and set up with the answer `ok` (41_lifecycle.md R174). -/
def Chip.rebind (P : Params) (D : Design) (c : Chip) (kind : EngineKind) (rate : Nat) (ok : Bool) : SetUp :=
  c.afterSetup D .configure { c with engineKind := kind, clockHz := P.clockHz, sampleRateHz := rate } ok

/-- The notice of a requested clock (45_mute_rate_clock.md R303). -/
def clockNotice (P : Params) (d : Decisions) (clockHz : Word) : List Notice :=
  if clockHz.toNat = P.clockHz then [] else d.reports.clock clockHz

/-- CONFIGURE(chipsel, engineId, clockReq, rateReq) (41_lifecycle.md R174). -/
def configure (P : Params) (D : Design) (sel : ChipSel) (id clockHz rateHz : Word) (s : State) : State :=
  s.onChip D .configure sel {} fun c =>
    let e := resolveEngine D.decisions s.g.defEngine c.engineKind id
    let rate := P.rateAdjust e.1 (clamp rateHz.toNat P.rateMin P.rateMax)
    let r := c.rebind P D e.1 rate (engineSetup P s e.1 rate)
    (((s.notices (e.2 ++ clockNotice P D.decisions clockHz)).draw r.draws).setChip sel r.chip).ends D .configure r.ending
      (D.decisions.ids.engineId e.1) (resultWord P.clockHz) (resultWord rate)

/-! ## Cleanup -/

/-- The notice of a nonzero overflow count (41_lifecycle.md R175). -/
def overflowNotice (d : Decisions) (sel : ChipSel) (n : OverflowCount) : List Notice :=
  match sel with
  | .null => []
  | .slot i => if n = 0 then [] else d.reports.overflow i n

/-- CLEANUP on the slot of a Live instance: it becomes Destroyed, its streams stay (41_lifecycle.md R175). -/
def Slot.cleanup (D : Design) (sl : Slot) : Slot := D.decisions.transitions.alsoCleanup sl { sl with life := .destroyed }

/-- CLEANUP(chipsel) (41_lifecycle.md R175). -/
def cleanup (D : Design) (sel : ChipSel) (s : State) : State :=
  s.onChip D .cleanup sel {} fun c =>
    ((s.notices (overflowNotice D.decisions sel c.overflowCount)).modifySlot sel (Slot.cleanup D)).ends D .cleanup .done (D.decisions.reports.cleanupWord c.overflowCount)

/-! ## The meanings -/

/-- RESET (41_lifecycle.md R173). -/
def execReset (chip : ChipSel) (atCycle : Nat) (s : State) : Result := .next (reset design chip atCycle s)

/-- CONFIGURE (41_lifecycle.md R174). -/
def execConfigure (chip : ChipSel) (engineId clockHz rateHz : Word) (s : State) : Result :=
  .next (configure hw design chip engineId clockHz rateHz s)

/-- CLEANUP (41_lifecycle.md R175). -/
def execCleanup (chip : ChipSel) (s : State) : Result := .next (cleanup design chip s)

/-- CREATE (41_lifecycle.md R172). -/
def execCreate (chip : ChipSel) (s : State) : Result := .next (create hw design chip s)

/-- GLOBAL_INIT (41_lifecycle.md R170). -/
def execGlobalInit (s : State) : Result := .next (globalInit hw design s)

/-- GLOBAL_SHUTDOWN (41_lifecycle.md R171). -/
def execGlobalShutdown (s : State) : Result := .next (globalShutdown design s)

end Sys2Proof.Machine
end

