-- ==== Sys2Proof/Machine/Control.lean ====
section
/-! DEFINITION. Channel mute, sampling rate and engine selection: SETACTIVE, SETRATE, SET_ENGINE
(45_mute_rate_clock.md). -/

namespace Sys2Proof.Machine

open Sys2Proof.Config

/-! ## SETACTIVE -/

/-- The active mask and its mute representation, always together (10_state.md R35). -/
def Chip.withMask (D : Design) (c : Chip) (mask : BitVec 3) : Chip :=
  { c with activeMask := mask, muteRep := D.decisions.levels.muteLut mask }

/-- SETACTIVE(chipsel, clearMask, setMask) (45_mute_rate_clock.md R300). -/
def setActive (D : Design) (sel : ChipSel) (clearMask setMask : Word) (s : State) : State :=
  s.guarded D .setActive (s.setterFailing (s.setterTarget D sel)) <|
    match s.setterTarget D sel with
    | .null =>
      let new := D.decisions.transitions.newMask s.g.defActive clearMask setMask
      ({ s with g := D.decisions.transitions.nullActive new s.g }).ends D .setActive .done (new.setWidth 32)
    | .slot n =>
      match s.chip? (.slot n) with
      | none => s.ends D .setActive (.failed (D.decisions.checks.status .handle))
      | some c =>
        let new := D.decisions.transitions.newMask c.activeMask clearMask setMask
        (s.setChip (.slot n) (c.withMask D new)).ends D .setActive .done (new.setWidth 32)

/-! ## SETRATE -/

/-- The effective rate of a request: clamped, then adjusted by the bound engine (45_mute_rate_clock.md R301). -/
def Chip.effectiveRate (P : Params) (c : Chip) (hz : Nat) : Nat :=
  let r := clamp hz P.rateMin P.rateMax
  match c.binding.engine? with
  | none => r
  | some _ => P.rateAdjust c.engineKind r

/-- SETRATE(chipsel, hz); in the spec's design the null handle is an error like a dead one (45_mute_rate_clock.md
R301). -/
def setRate (P : Params) (D : Design) (sel : ChipSel) (hz : Word) (s : State) : State :=
  match sel, D.decisions.transitions.nullRate (clamp hz.toNat P.rateMin P.rateMax) s.g with
  | .null, some g => ({ s with g := g }).ends D .setRate .done (resultWord g.defRate)
  | sel, _ =>
    s.onChip D .setRate sel {} fun c =>
      let r := c.effectiveRate P hz.toNat
      (s.setChip sel { c with sampleRateHz := r }).ends D .setRate .done (resultWord r)

/-! ## SET_ENGINE -/

/-- The instance after SET_ENGINE with the answer `ok` of setup: `clockHz` is not written
(45_mute_rate_clock.md R302). -/
def Chip.switchEngine (D : Design) (c : Chip) (kind : EngineKind) (rate : Nat) (ok : Bool) : SetUp :=
  c.afterSetup D .setEngine { c with engineKind := kind, sampleRateHz := rate } ok

/-- SET_ENGINE(chipsel, id) (45_mute_rate_clock.md R302; the engine's id is RES0 of a failed setup too, log 14). -/
def setEngine (P : Params) (D : Design) (sel : ChipSel) (id : Word) (s : State) : State :=
  s.guarded D .setEngine (s.setterFailing (s.setterTarget D sel)) <|
    match s.setterTarget D sel with
    | .null =>
      let e := resolveEngine D.decisions s.g.defEngine s.g.defEngine id
      ({ s.notices e.2 with g := D.decisions.transitions.nullEngine e.1 s.g }).ends D .setEngine .done (D.decisions.ids.engineId e.1)
    | .slot n =>
      match s.chip? (.slot n) with
      | none => s.ends D .setEngine (.failed (D.decisions.checks.status .handle))
      | some c =>
        if D.decisions.transitions.queryIsGetter ∧ id = D.decisions.ids.queryId then
          s.ends D .setEngine .done (D.decisions.ids.engineId c.engineKind)
        else
          let e := resolveEngine D.decisions s.g.defEngine c.engineKind id
          let rate := P.rateAdjust e.1 c.sampleRateHz
          let r := c.switchEngine D e.1 rate (engineSetup P s e.1 rate)
          (((s.notices e.2).draw r.draws).setChip (.slot n) r.chip).ends D .setEngine r.ending
            (D.decisions.ids.engineId e.1)

/-! ## The meanings -/

/-- SETACTIVE (45_mute_rate_clock.md R300). -/
def execSetActive (chip : ChipSel) (clearMask setMask : Word) (s : State) : Result :=
  .next (setActive design chip clearMask setMask s)

/-- SETRATE (45_mute_rate_clock.md R301). -/
def execSetRate (chip : ChipSel) (requestedHz : Word) (s : State) : Result :=
  .next (setRate hw design chip requestedHz s)

/-- SET_ENGINE (45_mute_rate_clock.md R302). -/
def execSetEngine (chip : ChipSel) (engineId : Word) (s : State) : Result :=
  .next (setEngine hw design chip engineId s)

end Sys2Proof.Machine
end

