-- ==== Sys2Proof/Machine/RegisterWrite.lean ====
section
/-! DEFINITION. The register-write queue: WR0 to WR15 and CYCLEADJUST (40_register_write.md). -/

namespace Sys2Proof.Machine

open Sys2Proof.Config

/-- The body of WRITE on a Live instance: the shadow byte, then the event to the routed queues (40_register_write.md R130
to R132). -/
def Chip.write (P : Params) (D : Design) (c : Chip) (r : PortIndex) (value : Byte) (cycle : Nat) : Chip :=
  match regOfPort r with
  | none => c
  | some i =>
    let v := D.decisions.writes.stored i value
    ({ c with sh := c.sh.set i v } : Chip).enqueue P D (route D.decisions r) { ts := cycle, reg := i, val := v }

/-- WRITE(chipsel, r, value, cycle) (40_register_write.md R130). -/
def write (P : Params) (D : Design) (sel : ChipSel) (r : PortIndex) (value : Byte) (cycle : Nat) (s : State) :
    State :=
  s.onChip D .write sel { index := (regOfPort r).isNone } fun c =>
    (s.setChip sel (c.write P D r value cycle)).ends D .write .done

/-- The rebasing of one stamp, exact (40_register_write.md R149). -/
def Event.rebase (elapsed : Nat) (e : Event) : Event := { e with ts := e.ts - elapsed }

/-- CYCLEADJUST on a Live instance: every stamp down by N, consumed slots reclaimed (40_register_write.md R149). -/
def Chip.cycleAdjust (D : Design) (c : Chip) (elapsed : Nat) : Chip :=
  { c with
    queues := c.queues.mapEvents (Event.rebase elapsed)
    poolUsed := D.decisions.writes.reclaim c.poolUsed c.queues }

/-- CYCLEADJUST(chipsel, N) (40_register_write.md R149). -/
def cycleAdjust (D : Design) (sel : ChipSel) (elapsed : Nat) (s : State) : State :=
  s.onChip D .cycleAdjust sel { alignment := elapsed % 32 ≠ 0 } fun c =>
    (s.setChip sel (c.cycleAdjust D elapsed)).ends D .cycleAdjust .done

/-- WR0, write tone period A low byte (40_register_write.md R133). -/
def execWr0 (chip : ChipSel) (value : Byte) (cycle : Nat) (s : State) : Result :=
  .next (write hw design chip 0 value cycle s)

/-- WR1, write tone period A high byte (40_register_write.md R134). -/
def execWr1 (chip : ChipSel) (value : Byte) (cycle : Nat) (s : State) : Result :=
  .next (write hw design chip 1 value cycle s)

/-- WR2, write tone period B low byte (40_register_write.md R135). -/
def execWr2 (chip : ChipSel) (value : Byte) (cycle : Nat) (s : State) : Result :=
  .next (write hw design chip 2 value cycle s)

/-- WR3, write tone period B high byte (40_register_write.md R136). -/
def execWr3 (chip : ChipSel) (value : Byte) (cycle : Nat) (s : State) : Result :=
  .next (write hw design chip 3 value cycle s)

/-- WR4, write tone period C low byte (40_register_write.md R137). -/
def execWr4 (chip : ChipSel) (value : Byte) (cycle : Nat) (s : State) : Result :=
  .next (write hw design chip 4 value cycle s)

/-- WR5, write tone period C high byte (40_register_write.md R138). -/
def execWr5 (chip : ChipSel) (value : Byte) (cycle : Nat) (s : State) : Result :=
  .next (write hw design chip 5 value cycle s)

/-- WR6, write noise period (40_register_write.md R139). -/
def execWr6 (chip : ChipSel) (value : Byte) (cycle : Nat) (s : State) : Result :=
  .next (write hw design chip 6 value cycle s)

/-- WR7, write mixer (40_register_write.md R140). -/
def execWr7 (chip : ChipSel) (value : Byte) (cycle : Nat) (s : State) : Result :=
  .next (write hw design chip 7 value cycle s)

/-- WR8, write channel A volume (40_register_write.md R141). -/
def execWr8 (chip : ChipSel) (value : Byte) (cycle : Nat) (s : State) : Result :=
  .next (write hw design chip 8 value cycle s)

/-- WR9, write channel B volume (40_register_write.md R142). -/
def execWr9 (chip : ChipSel) (value : Byte) (cycle : Nat) (s : State) : Result :=
  .next (write hw design chip 9 value cycle s)

/-- WR10, write channel C volume (40_register_write.md R143). -/
def execWr10 (chip : ChipSel) (value : Byte) (cycle : Nat) (s : State) : Result :=
  .next (write hw design chip 10 value cycle s)

/-- WR11, write envelope period low byte (40_register_write.md R144). -/
def execWr11 (chip : ChipSel) (value : Byte) (cycle : Nat) (s : State) : Result :=
  .next (write hw design chip 11 value cycle s)

/-- WR12, write envelope period high byte (40_register_write.md R145). -/
def execWr12 (chip : ChipSel) (value : Byte) (cycle : Nat) (s : State) : Result :=
  .next (write hw design chip 12 value cycle s)

/-- WR13, write envelope shape (40_register_write.md R146). -/
def execWr13 (chip : ChipSel) (value : Byte) (cycle : Nat) (s : State) : Result :=
  .next (write hw design chip 13 value cycle s)

/-- WR14, write reserved index 14 (40_register_write.md R147). -/
def execWr14 (chip : ChipSel) (value : Byte) (cycle : Nat) (s : State) : Result :=
  .next (write hw design chip 14 value cycle s)

/-- WR15, write reserved index 15 (40_register_write.md R148). -/
def execWr15 (chip : ChipSel) (value : Byte) (cycle : Nat) (s : State) : Result :=
  .next (write hw design chip 15 value cycle s)

/-- CYCLEADJUST (40_register_write.md R149). -/
def execCycleAdjust (chip : ChipSel) (elapsed : Nat) (s : State) : Result := .next (cycleAdjust design chip elapsed s)

end Sys2Proof.Machine
end

