-- ==== Sys2Proof/Machine/Synthesis.lean ====
section
/-! DEFINITION. RUN and BUFSIZE: the event sequencer, the walk and the three engines (43_synthesis_engine.md). -/

namespace Sys2Proof.Machine

open Sys2Proof.Config

/-- What the walk changes: the committed registers, the queues, the engine-private state, and the dump records it
appends (43_synthesis_engine.md R223, R224). -/
structure Synth where
  x : RegFile
  queues : Queues
  eng : EngineState
  dump : List (BitVec 64)
deriving DecidableEq, Repr

/-- What the walk only reads (43_synthesis_engine.md R223). -/
structure WalkEnv where
  kind : EngineKind
  table : VolTable
  muteRep : BitVec 15
deriving DecidableEq, Repr

/-! ## Events -/

/-- ApplyEvent(c, q, e) on the registers and the engine (43_synthesis_engine.md R224). -/
def applyEvent (D : Design) (kind : EngineKind) (id : QueueId) (e : Event) (w : Synth) : Synth :=
  { w with
    x := w.x.set e.reg e.val
    eng := D.model.onEvent kind e.reg e.val w.eng
    dump :=
      if kind = .debugDump then w.dump ++ D.decisions.frames.record D.decisions.widths.stamp id e else w.dump }

/-- The stamp of a queue's head, if it is due (43_synthesis_engine.md R226). -/
def dueStamp (l : List Event) (lim : Int) : Option Int :=
  match l with
  | [] => none
  | e :: _ => if e.ts ≤ lim then some e.ts else none

/-- The earlier of two due heads (43_synthesis_engine.md R226). -/
def earlierDue (rank : QueueId → Nat) (p q : Option (Int × QueueId)) : Option (Int × QueueId) :=
  match p, q with
  | none, _ => q
  | some _, none => p
  | some a, some b => if b.1 < a.1 ∨ b.1 = a.1 ∧ rank b.2 < rank a.2 then some b else some a

/-- NextDue(c, lim), with the given order of the queues among equal stamps (43_synthesis_engine.md R226). -/
def Queues.nextDue (q : Queues) (rank : QueueId → Nat) (lim : Int) : Option QueueId :=
  let due (id : QueueId) := (dueStamp (q.get id) lim).map fun ts => (ts, id)
  (earlierDue rank (earlierDue rank (due .tone) (due .noise)) (due .env)).map Prod.snd

/-- ApplyDue(c, lim), at most `fuel` events (43_synthesis_engine.md R223). -/
def applyDueFuel (D : Design) (kind : EngineKind) (lim : Int) : Nat → Synth → Synth
  | 0, w => w
  | fuel + 1, w =>
    match w.queues.nextDue D.decisions.sequence.rank lim with
    | none => w
    | some id =>
      match w.queues.get id with
      | [] => w
      | e :: rest =>
        applyDueFuel D kind lim fuel (applyEvent D kind id e { w with queues := w.queues.set id rest })

/-- ApplyDue(c, lim): each turn takes one event off a queue, so the queued events are fuel enough
(43_synthesis_engine.md R223). -/
def applyDue (D : Design) (kind : EngineKind) (lim : Int) (w : Synth) : Synth :=
  applyDueFuel D kind lim w.queues.count w

/-! ## The walk -/

/-- The sample of a tick (43_synthesis_engine.md R223). -/
def tickSample (D : Design) (env : WalkEnv) (w : Synth) : Sample :=
  D.model.mixSample env.kind env.table env.muteRep w.x w.eng

/-- The generator step of a tick (43_synthesis_engine.md R223). -/
def tick (D : Design) (env : WalkEnv) (w : Synth) : Synth :=
  { w with eng := D.model.stepGenerators env.kind env.muteRep w.x w.eng }

/-- The ticks of a walk from tick `k` on: what stands at each once its events are applied, and what stands after the last
(43_synthesis_engine.md R223). -/
def walkTicks (D : Design) (env : WalkEnv) (k : Nat) : Nat → Synth → List Synth × Synth
  | 0, w => ([], w)
  | n + 1, w =>
    let a := applyDue D env.kind (D.decisions.sequence.due k) w
    let r := walkTicks D env (k + 1) n (tick D env a)
    (a :: r.1, r.2)

/-- Walk(c, N): N/8 ticks, then the tail events (43_synthesis_engine.md R223). -/
def walk (D : Design) (env : WalkEnv) (elapsed : Nat) (w : Synth) : List Synth × Synth :=
  let r := walkTicks D env 0 (elapsed / 8) w
  (r.1, applyDue D env.kind (D.decisions.sequence.last elapsed) r.2)

/-! ## Engines -/

/-- The output samples of an engine and its filter state after them (43_synthesis_engine.md R221, R227 to R229). BlepOut is
called for every block, an empty one too, and its filter state is kept: DESIGN CHOICE (log 23). -/
def engineOut (P : Params) (D : Design) (kind : EngineKind) (filter : Nat) (s : List Sample) (k n : Nat) :
    List Sample × Nat :=
  match kind with
  | .pulse => D.pulseOut filter s k n
  | .stepBandlimited => P.blepOut filter s k n
  | .debugDump => (D.debugOut n, filter)

/-- The state a walk of an instance starts from: the walk's own dump records are none yet. -/
def Chip.synth (c : Chip) (e : EngineState) : Synth := { x := c.x, queues := c.queues, eng := e, dump := [] }

/-- What a walk of an instance reads. -/
def Chip.walkEnv (c : Chip) (table : VolTable) : WalkEnv :=
  { kind := c.engineKind, table := table, muteRep := c.muteRep }

/-- What engineRun yields: the samples, the dump records, and the instance, Running. -/
structure RunResult where
  pcm : List Sample
  dump : List (BitVec 64)
  chip : Chip
deriving DecidableEq, Repr

/-- engineRun(c, N) with the binding's move to Running (43_synthesis_engine.md R220, R221). The filter state after an empty
block is log 23. -/
def Chip.engineRun (P : Params) (D : Design) (table : VolTable) (c : Chip) (e : EngineState) (elapsed : Nat) :
    RunResult :=
  let env := c.walkEnv table
  let r := walk D env elapsed (c.synth e)
  let o := engineOut P D c.engineKind r.2.eng.filter (r.1.map (tickSample D env)) (elapsed / 8)
    (c.samplesWritten D elapsed)
  { pcm := D.layout c.engineKind table c.muteRep (r.1.map fun w => (w.x, w.eng)) o.1
    dump := r.2.dump
    chip := D.decisions.transitions.alsoRun elapsed c
      { c with x := r.2.x, queues := r.2.queues, binding := .running { r.2.eng with filter := o.2 } } }

/-! ## The two commands -/

/-- RUN(chipsel, N, bufv) (43_synthesis_engine.md R220, R233). -/
def run (P : Params) (D : Design) (sel : ChipSel) (elapsed : Nat) (bufv : Bool) (s : State) : State :=
  s.onChip D .run sel { alignment := elapsed % 32 ≠ 0, buffer := !bufv } fun c =>
    match c.binding.engine? with
    | none => s.ends D .run (.failed (D.decisions.checks.status .binding))
    | some e =>
      let r := c.engineRun P D s.g.volTable e elapsed
      ((s.setChip sel r.chip).emit sel r.pcm r.dump).ends D .run .done
        (D.decisions.reports.runWord (c.samplesWritten D elapsed))

/-- BUFSIZE(chipsel, N) (43_synthesis_engine.md R222). -/
def bufSize (D : Design) (sel : ChipSel) (elapsed : Nat) (s : State) : State :=
  s.onChip D .bufSize sel { alignment := elapsed % 32 ≠ 0 } fun c =>
    s.ends D .bufSize .done (resultWord (c.bufferSize D elapsed))

/-- RUN (43_synthesis_engine.md R220). -/
def execRun (chip : ChipSel) (elapsed : Nat) (bufv : Bool) (s : State) : Result :=
  .next (run hw design chip elapsed bufv s)

/-- BUFSIZE (43_synthesis_engine.md R222). -/
def execBufSize (chip : ChipSel) (elapsed : Nat) (s : State) : Result := .next (bufSize design chip elapsed s)

end Sys2Proof.Machine
end

