-- ==== Sys2Proof/Machine/Volume.lean ====
section
/-! DEFINITION. SET_VOLMODEL (42_volume_table.md). -/

namespace Sys2Proof.Machine

open Sys2Proof.Config

/-- Puts a volume model in force, and rebuilds the one table where that is due (42_volume_table.md R204). -/
def Global.selectModel (P : Params) (D : Design) (g : Global) (m : VolModel) : Global :=
  { g with
    volModel := m
    volTable :=
      if D.decisions.transitions.rebuilds g.volModel m then buildVolumeTable P D.decisions m P.peakLevel else g.volTable }

/-- SET_VOLMODEL(chipsel, id) (42_volume_table.md R204). -/
def setVolModel (P : Params) (D : Design) (sel : ChipSel) (id : Word) (s : State) : State :=
  let m := resolveModel D.decisions s.g.volModel id
  s.guarded D .setVolModel (s.setterFailing (s.setterTarget D sel))
    (({ s.notices m.2 with g := s.g.selectModel P D m.1 }).ends D .setVolModel .done (D.decisions.ids.modelId m.1))

/-- SET_VOLMODEL (42_volume_table.md R204). -/
def execSetVolModel (chip : ChipSel) (modelId : Word) (s : State) : Result :=
  .next (setVolModel hw design chip modelId s)

end Sys2Proof.Machine
end

