-- ==== Sys2Proof/Machine/Dispatch.lean ====
section
/-! DEFINITION. The meaning of every command, one arm per constructor of Instr. -/

namespace Sys2Proof.Machine

def exec (i : Instr) (s : State) : Host.Outcome State Fault Refusal :=
  match i with
  | .wr0 chip value cycle => Sys2Proof.Machine.execWr0 chip value cycle s
  | .wr1 chip value cycle => Sys2Proof.Machine.execWr1 chip value cycle s
  | .wr2 chip value cycle => Sys2Proof.Machine.execWr2 chip value cycle s
  | .wr3 chip value cycle => Sys2Proof.Machine.execWr3 chip value cycle s
  | .wr4 chip value cycle => Sys2Proof.Machine.execWr4 chip value cycle s
  | .wr5 chip value cycle => Sys2Proof.Machine.execWr5 chip value cycle s
  | .wr6 chip value cycle => Sys2Proof.Machine.execWr6 chip value cycle s
  | .wr7 chip value cycle => Sys2Proof.Machine.execWr7 chip value cycle s
  | .wr8 chip value cycle => Sys2Proof.Machine.execWr8 chip value cycle s
  | .wr9 chip value cycle => Sys2Proof.Machine.execWr9 chip value cycle s
  | .wr10 chip value cycle => Sys2Proof.Machine.execWr10 chip value cycle s
  | .wr11 chip value cycle => Sys2Proof.Machine.execWr11 chip value cycle s
  | .wr12 chip value cycle => Sys2Proof.Machine.execWr12 chip value cycle s
  | .wr13 chip value cycle => Sys2Proof.Machine.execWr13 chip value cycle s
  | .wr14 chip value cycle => Sys2Proof.Machine.execWr14 chip value cycle s
  | .wr15 chip value cycle => Sys2Proof.Machine.execWr15 chip value cycle s
  | .run chip elapsed bufv => Sys2Proof.Machine.execRun chip elapsed bufv s
  | .cycleAdjust chip elapsed => Sys2Proof.Machine.execCycleAdjust chip elapsed s
  | .reset chip atCycle => Sys2Proof.Machine.execReset chip atCycle s
  | .bufSize chip elapsed => Sys2Proof.Machine.execBufSize chip elapsed s
  | .configure chip engineId clockHz rateHz => Sys2Proof.Machine.execConfigure chip engineId clockHz rateHz s
  | .cleanup chip => Sys2Proof.Machine.execCleanup chip s
  | .create chip => Sys2Proof.Machine.execCreate chip s
  | .setActive chip clearMask setMask => Sys2Proof.Machine.execSetActive chip clearMask setMask s
  | .setRate chip requestedHz => Sys2Proof.Machine.execSetRate chip requestedHz s
  | .setEngine chip engineId => Sys2Proof.Machine.execSetEngine chip engineId s
  | .setVolModel chip modelId => Sys2Proof.Machine.execSetVolModel chip modelId s
  | .globalInit => Sys2Proof.Machine.execGlobalInit s
  | .globalShutdown => Sys2Proof.Machine.execGlobalShutdown s

end Sys2Proof.Machine
end

