-- ==== Sys2Proof/Machine/Step.lean ====
section
/-! DEFINITION. One step: the block takes the next frame off the command port and executes it to completion
(00_scope.md R10); with no frame there it does nothing (70_reset_and_hazards.md R351; log 5). -/

namespace Sys2Proof.Machine

/-- One step of the machine. -/
def step (s : State) : Host.Outcome State Fault Refusal :=
  match fetch s with
  | none => .next s
  | some (w, s') =>
    match design.decisions.frames.command w with
    | .command i => exec i s'
    | .reserved _ => .next (s'.raiseReserved design)

/-- The state with one frame of the opcode table put on the command port, next to be taken (log 5). -/
def State.withFetchWord (s : State) (nbits w : Nat) : State := s.putFrame (frameOfTable nbits w)

end Sys2Proof.Machine
end

