-- ==== Sys2Proof/Machine/Configured.lean ====
section
/-! DEFINITION. The machine under any open parameters and any design, so that a claim can quantify over the configuration
(00_scope.md R5). `State.reset`, `exec` and `step` are this machine at `hw` and `design` (Laws/Effects.lean). -/

namespace Sys2Proof.Machine

open Sys2Proof.Config

/-- Power-on under the given configuration (70_reset_and_hazards.md R352). -/
def powerOn (P : Params) (D : Design) : State :=
  let p := D.decisions.lifetime.powerOn P
  { g := p.1, chips := p.2, diag := [], cmds := [], resp := none, draws := 0 }

/-- The state after a command, under the given configuration. -/
def command (P : Params) (D : Design) : Instr → State → State
  | .wr0 chip value cycle => write P D chip 0 value cycle
  | .wr1 chip value cycle => write P D chip 1 value cycle
  | .wr2 chip value cycle => write P D chip 2 value cycle
  | .wr3 chip value cycle => write P D chip 3 value cycle
  | .wr4 chip value cycle => write P D chip 4 value cycle
  | .wr5 chip value cycle => write P D chip 5 value cycle
  | .wr6 chip value cycle => write P D chip 6 value cycle
  | .wr7 chip value cycle => write P D chip 7 value cycle
  | .wr8 chip value cycle => write P D chip 8 value cycle
  | .wr9 chip value cycle => write P D chip 9 value cycle
  | .wr10 chip value cycle => write P D chip 10 value cycle
  | .wr11 chip value cycle => write P D chip 11 value cycle
  | .wr12 chip value cycle => write P D chip 12 value cycle
  | .wr13 chip value cycle => write P D chip 13 value cycle
  | .wr14 chip value cycle => write P D chip 14 value cycle
  | .wr15 chip value cycle => write P D chip 15 value cycle
  | .run chip elapsed bufv => run P D chip elapsed bufv
  | .cycleAdjust chip elapsed => cycleAdjust D chip elapsed
  | .reset chip atCycle => reset D chip atCycle
  | .bufSize chip elapsed => bufSize D chip elapsed
  | .configure chip engineId clockHz rateHz => configure P D chip engineId clockHz rateHz
  | .cleanup chip => cleanup D chip
  | .create chip => create P D chip
  | .setActive chip clearMask setMask => setActive D chip clearMask setMask
  | .setRate chip requestedHz => setRate P D chip requestedHz
  | .setEngine chip engineId => setEngine P D chip engineId
  | .setVolModel chip modelId => setVolModel P D chip modelId
  | .globalInit => globalInit P D
  | .globalShutdown => globalShutdown D

/-- The state after one step, under the given configuration. -/
def stepUnder (P : Params) (D : Design) (s : State) : State :=
  match fetch s with
  | none => s
  | some (w, s') =>
    match D.decisions.frames.command w with
    | .command i => command P D i s'
    | .reserved _ => s'.raiseReserved D

end Sys2Proof.Machine
end

