-- ==== Sys2Proof/Machine/Assembler.lean ====
section
/-! DEFINITION. The assembler's text of a command and the pseudo-commands (30_encoding.md R94, R100, R101). -/

namespace Sys2Proof.Machine

open Sys2Proof.Config

/-- `chip` in the text: `c0`, `c1`, … or `null` (30_encoding.md R100). -/
def chipText : ChipSel → String
  | .null => "null"
  | .slot n => "c" ++ toString n.val

/-- One command's text: the mnemonic, then the operands with commas between them (30_encoding.md R100). -/
def lineText (mnemonic : String) (operands : List String) : String :=
  if operands.isEmpty then mnemonic else mnemonic ++ " " ++ ", ".intercalate operands

/-- The text of a write. -/
def writeText (mnemonic : String) (chip : ChipSel) (value : Byte) (cycle : Nat) : String :=
  lineText mnemonic [chipText chip, toString value.toNat, toString cycle]

/-- The text of a command, numbers in decimal (30_encoding.md R100). -/
def instrText : Instr → String
  | .wr0 chip value cycle => writeText "WR0" chip value cycle
  | .wr1 chip value cycle => writeText "WR1" chip value cycle
  | .wr2 chip value cycle => writeText "WR2" chip value cycle
  | .wr3 chip value cycle => writeText "WR3" chip value cycle
  | .wr4 chip value cycle => writeText "WR4" chip value cycle
  | .wr5 chip value cycle => writeText "WR5" chip value cycle
  | .wr6 chip value cycle => writeText "WR6" chip value cycle
  | .wr7 chip value cycle => writeText "WR7" chip value cycle
  | .wr8 chip value cycle => writeText "WR8" chip value cycle
  | .wr9 chip value cycle => writeText "WR9" chip value cycle
  | .wr10 chip value cycle => writeText "WR10" chip value cycle
  | .wr11 chip value cycle => writeText "WR11" chip value cycle
  | .wr12 chip value cycle => writeText "WR12" chip value cycle
  | .wr13 chip value cycle => writeText "WR13" chip value cycle
  | .wr14 chip value cycle => writeText "WR14" chip value cycle
  | .wr15 chip value cycle => writeText "WR15" chip value cycle
  | .run chip elapsed bufv =>
    lineText "RUN" ([chipText chip, toString elapsed] ++ if bufv then [] else ["NOBUF"])
  | .cycleAdjust chip elapsed => lineText "CYCLEADJUST" [chipText chip, toString elapsed]
  | .reset chip atCycle => lineText "RESET" [chipText chip, toString atCycle]
  | .bufSize chip elapsed => lineText "BUFSIZE" [chipText chip, toString elapsed]
  | .configure chip engineId clockHz rateHz =>
    lineText "CONFIGURE" [chipText chip, toString engineId.toNat, toString clockHz.toNat, toString rateHz.toNat]
  | .cleanup chip => lineText "CLEANUP" [chipText chip]
  | .create chip => lineText "CREATE" [chipText chip]
  | .setActive chip clearMask setMask =>
    lineText "SETACTIVE" [chipText chip, toString clearMask.toNat, toString setMask.toNat]
  | .setRate chip requestedHz => lineText "SETRATE" [chipText chip, toString requestedHz.toNat]
  | .setEngine chip engineId => lineText "SET_ENGINE" [chipText chip, toString engineId.toNat]
  | .setVolModel chip modelId => lineText "SET_VOLMODEL" [chipText chip, toString modelId.toNat]
  | .globalInit => "GLOBAL_INIT"
  | .globalShutdown => "GLOBAL_SHUTDOWN"

/-- The second names of WR0 to WR13 (30_encoding.md R94). -/
def writeNickname : Reg → String
  | 0 => "WR.TPA_LO"
  | 1 => "WR.TPA_HI"
  | 2 => "WR.TPB_LO"
  | 3 => "WR.TPB_HI"
  | 4 => "WR.TPC_LO"
  | 5 => "WR.TPC_HI"
  | 6 => "WR.NP"
  | 7 => "WR.MIX"
  | 8 => "WR.VOLA"
  | 9 => "WR.VOLB"
  | 10 => "WR.VOLC"
  | 11 => "WR.EP_LO"
  | 12 => "WR.EP_HI"
  | 13 => "WR.ESHAPE"
  | _ => ""

/-- WTP chip, ch, p, cycle: the low byte, then the high byte (30_encoding.md R101). -/
def pseudoWtp (chip : ChipSel) (ch : Channel) (p : BitVec 12) (cycle : Nat) : List Instr :=
  let lo := p.extractLsb' 0 8
  let hi := (p.extractLsb' 8 4).setWidth 8
  match ch with
  | .a => [.wr0 chip lo cycle, .wr1 chip hi cycle]
  | .b => [.wr2 chip lo cycle, .wr3 chip hi cycle]
  | .c => [.wr4 chip lo cycle, .wr5 chip hi cycle]

/-- WEP chip, p, cycle (30_encoding.md R101). -/
def pseudoWep (chip : ChipSel) (p : BitVec 16) (cycle : Nat) : List Instr :=
  [.wr11 chip (p.extractLsb' 0 8) cycle, .wr12 chip (p.extractLsb' 8 8) cycle]

/-- GET_ACTIVE chip (30_encoding.md R101). -/
def pseudoGetActive (chip : ChipSel) : List Instr := [.setActive chip 0 0]

/-- MUTE chip, ch (30_encoding.md R101). -/
def pseudoMute (chip : ChipSel) (ch : Channel) : List Instr := [.setActive chip (1 <<< ch.index) 0]

/-- UNMUTE chip, ch (30_encoding.md R101). -/
def pseudoUnmute (chip : ChipSel) (ch : Channel) : List Instr := [.setActive chip 0 (1 <<< ch.index)]

/-- GET_ENGINE chip (30_encoding.md R101). -/
def pseudoGetEngine (chip : ChipSel) : List Instr := [.setEngine chip queryId]

/-- GET_VOLMODEL (30_encoding.md R101). -/
def pseudoGetVolModel : List Instr := [.setVolModel .null queryId]

/-- The status on the response port. -/
def State.status? (s : State) : Option Status := s.resp.map Response.status

/-- RUN_BLOCK chip, N: RUN, then CYCLEADJUST unless the RUN returned an error (30_encoding.md R101). -/
def runBlock (chip : ChipSel) (elapsed : Nat) (s : State) : Result :=
  match exec (.run chip elapsed true) s with
  | .next t => if t.status? = some .ok then exec (.cycleAdjust chip elapsed) t else .next t
  | .fault r => .fault r
  | .refused r => .refused r

end Sys2Proof.Machine
end

