-- ==== Sys2Proof/Safety.lean ====
section
/-! DEFINITION. What claims are stated in: the invariants of a state (10_state.md R47), the host obligations on the
stamps (70_reset_and_hazards.md R354, R358; 93_implementation_defined.md U1, U2), and what a claim may observe
(00_scope.md R15). -/

namespace Sys2Proof.Machine

open Sys2Proof.Config

/-! ## Invariants -/

/-- Non-decreasing stamps (10_state.md R30). -/
def stampsOrdered (l : List Event) : Prop := l.Pairwise fun e e' => e.ts ≤ e'.ts

/-- Each queue is in non-decreasing stamp order (10_state.md R47 a). -/
def Queues.Ordered (q : Queues) : Prop :=
  stampsOrdered q.tone ∧ stampsOrdered q.noise ∧ stampsOrdered q.env

/-- `v` is the value of the last event for register `i` among those with stamps up to `lim`: last by stamp, among equal
stamps by the rank of the queue, in a queue by place (43_synthesis_engine.md R226, 20_memory.md R68, R73). -/
def Queues.LastWrite (q : Queues) (rank : QueueId → Nat) (lim : Int) (i : Reg) (v : Byte) : Prop :=
  ∃ (id : QueueId) (k : Nat) (ev : Event), (q.get id)[k]? = some ev ∧ ev.reg = i ∧ ev.ts ≤ lim ∧ ev.val = v ∧
    ∀ (id' : QueueId) (k' : Nat) (ev' : Event), (q.get id')[k']? = some ev' → ev'.reg = i →
      ev'.ts ≤ lim →
      ev'.ts < ev.ts ∨ ev'.ts = ev.ts ∧ (rank id' < rank id ∨ id' = id ∧ k' ≤ k)

/-- `v` is what register `i` holds, from `old`, once the events with stamps up to `lim` have been applied
(43_synthesis_engine.md R223). -/
def Queues.Commits (q : Queues) (rank : QueueId → Nat) (lim : Int) (i : Reg) (old v : Byte) : Prop :=
  q.LastWrite rank lim i v ∨ (∀ id, ∀ ev ∈ q.get id, ev.reg = i → lim < ev.ts) ∧ v = old

/-- A noise register that still runs: never all zeros (44_generators.md R262). -/
def EngineState.Inv (e : EngineState) : Prop := e.lfsr ≠ 0

/-- The invariants of a Live instance: R47 b, e, f, g, R262, and the width of the overflow counter (R33). -/
structure Chip.Inv (P : Params) (c : Chip) : Prop where
  count_le_poolUsed : c.queues.count ≤ c.poolUsed
  poolUsed_le : c.poolUsed ≤ P.poolCap
  muteRep_eq : c.muteRep = muteLut c.activeMask
  clock_eq : c.clockHz = P.clockHz
  rate_ge : P.rateMin ≤ c.sampleRateHz
  rate_le : c.sampleRateHz ≤ P.rateMax
  engine : ∀ e, c.binding.engine? = some e → e.Inv
  overflow_lt : c.overflowCount < 2 ^ overflowBits

/-- The invariants of an initialised `G`: the table is fully built for the model in force (R47 c), the defaults are in
range (10_state.md R41). -/
structure Global.Inv (P : Params) (g : Global) : Prop where
  table_eq : g.volTable = buildVolumeTable P decisions g.volModel P.peakLevel
  rate_ge : P.rateMin ≤ g.defRate
  rate_le : g.defRate ≤ P.rateMax
  clock_eq : g.defClock = P.clockHz

/-- The invariant of the machine: NCHIP slots; `G` is sound once initialised; Live instances are sound and exist only
while `G.init` = 1 (70_reset_and_hazards.md R352); every emitted sample fits SAMPLE_BITS (10_state.md R43). -/
structure State.Inv (s : State) : Prop where
  slots : s.chips.length = hw.nchip
  global : s.g.init = true → s.g.Inv hw
  live : ∀ sl ∈ s.chips, ∀ c, sl.chip? = some c → c.Inv hw ∧ s.g.init = true
  samples : ∀ sl ∈ s.chips, ∀ v ∈ sl.pcm, FitsSigned sampleBits v

/-! ## Host obligations -/

/-- An append with stamp `ts` keeps a queue in order (93_implementation_defined.md U1). -/
def appendKeepsOrder (l : List Event) (ts : Int) : Prop := ∀ e ∈ l, e.ts ≤ ts

/-- The host obligation on a write: the stamp is not below any stamp in the queues it joins
(93_implementation_defined.md U1, 70_reset_and_hazards.md R358). -/
def Chip.writeInOrder (d : Decisions) (c : Chip) (r : PortIndex) (cycle : Nat) : Prop :=
  ∀ id ∈ route d r, appendKeepsOrder (c.queues.get id) cycle

/-! ## What a command touches -/

/-- Slot `n` exists, is `sl`, and holds the Live instance `c`. -/
structure State.LiveAt (s : State) (n : SlotNo) (sl : Slot) (c : Chip) : Prop where
  slot : s.slot? (.slot n) = some sl
  life : sl.life = .live c

/-- Every slot but `n` is as before, and so is the number of slots (20_memory.md R75). -/
structure SameOtherSlots (s t : State) (n : SlotNo) : Prop where
  length : t.chips.length = s.chips.length
  slots : ∀ m, m ≠ n → t.slot? (.slot m) = s.slot? (.slot m)

/-- `G`, the DIAG stream, the command port and the draws are as before. -/
structure SameBeside (s t : State) : Prop where
  g : t.g = s.g
  diag : t.diag = s.diag
  cmds : t.cmds = s.cmds
  draws : t.draws = s.draws

/-- The response port shows a status and three result words (30_encoding.md R93). -/
def State.Answered (t : State) (st : Status) (r0 r1 r2 : Word) : Prop := t.resp = some ⟨st, r0, r1, r2⟩

/-- Only slot `n` changed, to `sl`, and the answer is status OK with RES0 = `r0`. -/
structure ChangedOnly (s t : State) (n : SlotNo) (sl : Slot) (r0 : Word) : Prop where
  slot : t.slot? (.slot n) = some sl
  others : SameOtherSlots s t n
  beside : SameBeside s t
  answer : t.Answered .ok r0 0 0

/-- The state after a command that ended in an error: the state before it, but for the response
(60_exceptions.md R321). -/
def State.failedWith (s : State) (st : Status) : State := { s with resp := some ⟨st, 0, 0, 0⟩ }

/-- The handle a command addresses; the global commands address none (30_encoding.md R94). -/
def handleOf : Instr → Option ChipSel
  | .wr0 chip _ _ => some chip
  | .wr1 chip _ _ => some chip
  | .wr2 chip _ _ => some chip
  | .wr3 chip _ _ => some chip
  | .wr4 chip _ _ => some chip
  | .wr5 chip _ _ => some chip
  | .wr6 chip _ _ => some chip
  | .wr7 chip _ _ => some chip
  | .wr8 chip _ _ => some chip
  | .wr9 chip _ _ => some chip
  | .wr10 chip _ _ => some chip
  | .wr11 chip _ _ => some chip
  | .wr12 chip _ _ => some chip
  | .wr13 chip _ _ => some chip
  | .wr14 chip _ _ => some chip
  | .wr15 chip _ _ => some chip
  | .run chip _ _ => some chip
  | .cycleAdjust chip _ => some chip
  | .reset chip _ => some chip
  | .bufSize chip _ => some chip
  | .configure chip _ _ _ => some chip
  | .cleanup chip => some chip
  | .create chip => some chip
  | .setActive chip _ _ => some chip
  | .setRate chip _ => some chip
  | .setEngine chip _ => some chip
  | .setVolModel chip _ => some chip
  | .globalInit => none
  | .globalShutdown => none

/-! ## Observation -/

/-- The binding without the engine-private state, which is not observable (00_scope.md R15, 10_state.md R38). -/
inductive BindingName where
  | unconfigured
  | configured
  | running
  | destroyed
deriving DecidableEq, Repr

/-- The name of a Live instance's binding. -/
def Binding.name : Binding → BindingName
  | .unconfigured => .unconfigured
  | .configured _ => .configured
  | .running _ => .running

/-- The snapshot of a Live instance (00_scope.md R15). -/
structure ChipView where
  sh : RegFile
  x : RegFile
  queues : Queues
  poolUsed : Nat
  overflowCount : OverflowCount
  activeMask : BitVec 3
  engineKind : EngineKind
  binding : BindingName
  sampleRateHz : Nat
  clockHz : Nat
deriving DecidableEq, Repr

/-- What a claim may read of a Live instance. -/
def Chip.view (c : Chip) : ChipView :=
  { sh := c.sh, x := c.x, queues := c.queues, poolUsed := c.poolUsed, overflowCount := c.overflowCount
    activeMask := c.activeMask, engineKind := c.engineKind, binding := c.binding.name
    sampleRateHz := c.sampleRateHz, clockHz := c.clockHz }

/-- What a claim may read of a slot: whether it is Live or Destroyed, its snapshot, its streams. -/
structure SlotView where
  chip : Option ChipView
  destroyed : Bool
  pcm : List Sample
  dump : List (BitVec 64)
deriving DecidableEq, Repr

/-- The view of a slot. -/
def Slot.view (sl : Slot) : SlotView :=
  { chip := sl.chip?.map Chip.view, destroyed := sl.life = .destroyed, pcm := sl.pcm, dump := sl.dump }

/-- What a claim about a command sequence may read (00_scope.md R15). -/
structure Observation where
  resp : Option Response
  slots : List SlotView
  diag : List Notice
  init : Bool
  volModel : VolModel
  defEngine : EngineKind
  defRate : Nat
  defClock : Nat
  defActive : BitVec 3
deriving DecidableEq, Repr

/-- The observation of a state. -/
def State.observe (s : State) : Observation :=
  { resp := s.resp, slots := s.chips.map Slot.view, diag := s.diag, init := s.g.init
    volModel := s.g.volModel, defEngine := s.g.defEngine, defRate := s.g.defRate
    defClock := s.g.defClock, defActive := s.g.defActive }

end Sys2Proof.Machine
end

