-- ==== Sys2Proof/Certificates/Slice0/Obligations.lean ====
section
/-! DEFINITION. The statements about the model, one def per obligation, from the numbered rules of spec/. -/

open Sys2Proof Sys2Proof.Machine Sys2Proof.Config

/-! ## Values the spec writes out -/

/-- RESET_REG (10_state.md R46). -/
def powerOnRegisters : RegFile :=
  #v[0xFF, 0x0F, 0xFF, 0x0F, 0xFF, 0x0F, 0x1F, 0xFF, 0x00, 0x00, 0x00, 0xFF, 0xFF, 0x0A]

/-- Engine-private state after engine reset (10_state.md R42). -/
def freshEngine : EngineState :=
  { tone := ⟨⟨0, false⟩, ⟨0, false⟩, ⟨0, false⟩⟩, noiseCnt := 0, lfsr := 1, envCnt := 0, envPos := 0, filter := 0 }

/-- The ids of the engine kinds (30_encoding.md R98). -/
def engineNumber : EngineKind → Word
  | .pulse => 1
  | .stepBandlimited => 2
  | .debugDump => 3

/-- The order of the queues among equal stamps (43_synthesis_engine.md R226). -/
def tieOrder : QueueId → Nat
  | .tone => 0
  | .noise => 1
  | .env => 2

/-! ## Encoding -/

/-- Decoding the frame of a well-formed command gives the command back (30_encoding.md R92, R94, R95). -/
def Obligations.DecodeOfEncode : Prop :=
  ∀ i : Instr, i.wf = true → decode (encode i) = .command i

/-- A frame that decodes to a command is the frame that carries it, and the command is well-formed: each frame has one
meaning (30_encoding.md R90, R92). -/
def Obligations.EncodeOfDecode : Prop :=
  ∀ (w : FrameBits) (i : Instr), decode w = .command i → encode i = w ∧ i.wf = true

/-- What R97 calls reserved, field by field: OPC 0x1D..0xFF; a must-be-zero bit of the format (formats of R92, R94);
BUFV outside RUN; CHIP other than 0xFF in the global commands. -/
def reservedByRule (f : Frame) : Prop :=
  let opc := f.opc.toNat
  let w := opc ≤ 0x0F
  let n := 0x10 ≤ opc ∧ opc ≤ 0x13
  let z := opc = 0x15 ∨ opc = 0x16 ∨ opc = 0x1B ∨ opc = 0x1C
  let m := opc = 0x17
  let i := 0x18 ≤ opc ∧ opc ≤ 0x1A
  0x1D ≤ opc ∨ f.mbzHigh ≠ 0 ∨ f.mbzLow ≠ 0 ∨
    (w ∧ (2 ^ 8 ≤ f.a.toNat ∨ 2 ^ 31 ≤ f.b.toNat ∨ f.c ≠ 0)) ∨
    (n ∧ (2 ^ 31 ≤ f.a.toNat ∨ f.b ≠ 0 ∨ f.c ≠ 0)) ∨
    (z ∧ (f.a ≠ 0 ∨ f.b ≠ 0 ∨ f.c ≠ 0)) ∨
    (m ∧ f.c ≠ 0) ∨
    (i ∧ (f.b ≠ 0 ∨ f.c ≠ 0)) ∨
    (f.bufv ≠ 0 ∧ opc ≠ 0x10) ∨
    ((opc = 0x1B ∨ opc = 0x1C) ∧ f.chip ≠ 0xFF)

/-- The decoder rejects exactly the reserved frames, and the block answers one with E_INVAL and zero result words and
changes no state (30_encoding.md R97). That the step takes the frame off `cmds` rests on the command port as a list, the
model's choice (log 5). -/
def Obligations.ReservedFrames : Prop :=
  (∀ w : FrameBits, (∃ why, decode w = .reserved why) ↔ reservedByRule (Frame.ofBits w)) ∧
  ∀ (s : State) (w : FrameBits) (rest : List FrameBits), s.cmds = w :: rest → reservedByRule (Frame.ofBits w) →
    step s = .next { s with cmds := rest, resp := some ⟨.eInval, 0, 0, 0⟩ }

/-- Frames the spec writes out decode to the commands it writes beside them (40_register_write.md R133, R135, R149;
41_lifecycle.md R170, R174; 43_synthesis_engine.md R220; 45_mute_rate_clock.md R300, R302). -/
def Obligations.WrittenOutFramesDecode : Prop :=
  decode 0x00000000_000000FF_00000000_00000000 = .command (.wr0 (.slot 0) 0xFF 0) ∧
  decode 0x02000000_0000001C_00000064_00000000 = .command (.wr2 (.slot 0) 0x1C 100) ∧
  decode 0x10000100_00000020_00000000_00000000 = .command (.run (.slot 0) 32 true) ∧
  decode 0x11000000_00000020_00000000_00000000 = .command (.cycleAdjust (.slot 0) 32) ∧
  decode 0x14000000_00000002_001E8480_0000BB80 = .command (.configure (.slot 0) 2 2000000 48000) ∧
  decode 0x17FF0000_00000004_00000000_00000000 = .command (.setActive .null 4 0) ∧
  decode 0x19000000_FFFFFFFF_00000000_00000000 = .command (.setEngine (.slot 0) 0xFFFFFFFF) ∧
  decode 0x1BFF0000_00000000_00000000_00000000 = .command .globalInit

/-! ## The step -/

/-- A step takes the next frame off the command port and runs the command it carries; nothing else is done around
`exec` (00_scope.md R10, 30_encoding.md R90). With no frame there it changes nothing (70_reset_and_hazards.md R351). The
command port as a list in the state is the model's choice (log 5). -/
def Obligations.StepRunsDecodedCommand : Prop :=
  (∀ (s : State) (w : FrameBits) (rest : List FrameBits) (i : Instr),
    s.cmds = w :: rest → decode w = .command i → step s = exec i { s with cmds := rest }) ∧
  ∀ s : State, s.cmds = [] → step s = .next s

/-! ## Power-on and whole-machine rules -/

/-- Power-on: not initialised, NCHIP slots, every slot Absent (70_reset_and_hazards.md R352, 10_state.md R20). That NCHIP
is at least 1 is 00_scope.md R7, that it is at most 255 is 92_eei_decisions.md part 1, with NCHIP as the number of slots
in the list deduced (log 17). -/
def Obligations.PowerOnState : Prop :=
  State.reset.g.init = false ∧ State.reset.chips.length = hw.nchip ∧ 1 ≤ hw.nchip ∧ hw.nchip ≤ 255 ∧
    ∀ sl ∈ State.reset.chips, sl.life = .absent

/-- The invariant of the machine holds at power-on (10_state.md R47). -/
def Obligations.InvAtPowerOn : Prop := State.reset.Inv

/-- Every step keeps the invariant of the machine, from any state that meets it: NCHIP slots; table and defaults sound
once initialised; every Live instance has its queued events within `poolUsed` ≤ POOL_CAP, its mute representation equal
to MUTE_LUT of its mask, its clock CLOCK_HZ, its rate in range, an overflow count of OVF_BITS bits and a noise register
that is not zero; Live instances exist only once initialised; every emitted sample fits SAMPLE_BITS, signed (10_state.md
R33, R35, R39, R41, R43, R47; 44_generators.md R262; 43_synthesis_engine.md R232; 70_reset_and_hazards.md R352). -/
def Obligations.StepKeepsInv : Prop :=
  ∀ s t : State, s.Inv → step s = .next t → t.Inv

/-- An error status leaves the state as it was: whenever a command answers E_INVAL or E_STATE, the state after it is
the state before it but for the response, whose result words are zero (60_exceptions.md R321, R322, R327). -/
def Obligations.ErrorsChangeNothing : Prop :=
  ∀ (i : Instr) (s t : State) (r : Response), exec i s = .next t → t.resp = some r →
    r.status = .eInval ∨ r.status = .eState → t = s.failedWith r.status

/-- Before GLOBAL_INIT every command but it fails and changes nothing: CREATE on an existing slot, GLOBAL_SHUTDOWN and
the three setters with the null handle with E_STATE, every other command with E_INVAL (70_reset_and_hazards.md R352). -/
def Obligations.UninitialisedCommandsFail : Prop :=
  ∀ (i : Instr) (s : State), s.g.init = false → s.anyLive = false → i ≠ .globalInit →
    exec i s = .next (s.failedWith (
      match i with
      | .create sel => if (s.slot? sel).isSome then .eState else .eInval
      | .globalShutdown => .eState
      | .setActive .null _ _ => .eState
      | .setEngine .null _ => .eState
      | .setVolModel .null _ => .eState
      | _ => .eInval))

/-- A command that needs a Live instance and is given a handle that names none answers E_INVAL and changes nothing
(30_encoding.md R96, 60_exceptions.md R322); CREATE and the null handle of the three setters are apart. -/
def Obligations.DeadHandleIsInvalid : Prop :=
  ∀ (i : Instr) (sel : ChipSel) (s : State), handleOf i = some sel → s.chip? sel = none → i ≠ .create sel →
    (sel = .null → (∀ a b, i ≠ .setActive .null a b) ∧ (∀ a, i ≠ .setEngine .null a) ∧ ∀ a, i ≠ .setVolModel .null a) →
    exec i s = .next (s.failedWith .eInval)

/-- A command that names a slot leaves every other slot as it was, streams included (20_memory.md R75,
70_reset_and_hazards.md R365). -/
def Obligations.OtherSlotsUntouched : Prop :=
  ∀ (i : Instr) (n : SlotNo) (s t : State), handleOf i = some (.slot n) → exec i s = .next t → SameOtherSlots s t n

/-- Only RUN, RESET and CREATE write committed registers, and only WR0..WR13, RESET and CREATE write shadow registers:
an instance Live before and after any other command keeps them (10_state.md R21). -/
def Obligations.RegisterWriters : Prop :=
  ∀ (i : Instr) (s t : State) (n : SlotNo) (c c' : Chip), exec i s = .next t →
    s.chip? (.slot n) = some c → t.chip? (.slot n) = some c' →
    ((∀ m b, i ≠ .run (.slot n) m b) → (∀ m, i ≠ .reset (.slot n) m) → c'.x = c.x) ∧
    ((∀ r v m, i ≠ .wr r (.slot n) v m) → (∀ m, i ≠ .reset (.slot n) m) → c'.sh = c.sh)

/-- Samples and dump records come from RUN alone, and are appended; every other command but the slot's CREATE leaves
them (10_state.md R43, R46; 43_synthesis_engine.md, "the only way audio is produced"). That the
streams stay in the slot after CLEANUP and the global commands is deduced (log 11). -/
def Obligations.StreamsAreAppendOnly : Prop :=
  ∀ (i : Instr) (s t : State) (n : SlotNo) (sl sl' : Slot), exec i s = .next t →
    s.slot? (.slot n) = some sl → t.slot? (.slot n) = some sl' → i ≠ .create (.slot n) →
    (∃ pcm dump, sl'.pcm = sl.pcm ++ pcm ∧ sl'.dump = sl.dump ++ dump) ∧
    ((∀ m b, i ≠ .run (.slot n) m b) → sl'.pcm = sl.pcm ∧ sl'.dump = sl.dump)

/-- The volume table and its model are written by GLOBAL_INIT and SET_VOLMODEL only, but for GLOBAL_SHUTDOWN, which
leaves them unspecified (10_state.md R40, 41_lifecycle.md R171). -/
def Obligations.VolumeTableWriters : Prop :=
  ∀ (i : Instr) (s t : State), exec i s = .next t → i ≠ .globalInit → i ≠ .globalShutdown →
    (∀ sel id, i ≠ .setVolModel sel id) → t.g.volTable = s.g.volTable ∧ t.g.volModel = s.g.volModel

/-! ## Register writes -/

/-- WR0..WR6 and WR8..WR13 with a free slot: the shadow byte is written, one event joins the back of the queue R131
names, one slot is taken, status OK, and nothing else changes (40_register_write.md R130 to R139, R141 to R146). -/
def Obligations.WriteQueuesOneEvent : Prop :=
  ∀ (r : PortIndex) (i : Reg) (q : QueueId) (s : State) (n : SlotNo) (sl : Slot) (c : Chip) (v : Byte) (cycle : Nat),
    i.val = r.val →
    (r ∈ [0, 1, 2, 3, 4, 5, 8, 9, 10] ∧ q = .tone ∨ r = 6 ∧ q = .noise ∨ r ∈ [11, 12, 13] ∧ q = .env) →
    s.LiveAt n sl c → c.poolUsed < hw.poolCap →
    ∃ t, exec (.wr r (.slot n) v cycle) s = .next t ∧
      ChangedOnly s t n { sl with life := .live (
        { c with
          sh := c.sh.set i v
          queues := c.queues.set q (c.queues.get q ++ [⟨cycle, i, v⟩])
          poolUsed := c.poolUsed + 1 }) } 0

/-- WR7: the shadow byte is written; with two free slots the same event joins the tone queue and the noise queue, with
one only the tone queue and one drop is counted, with none two drops are counted; status OK, nothing else changes
(40_register_write.md R140, R132). -/
def Obligations.MixerWriteQueuesTwoEvents : Prop :=
  ∀ (s : State) (n : SlotNo) (sl : Slot) (c : Chip) (v : Byte) (cycle : Nat), s.LiveAt n sl c →
    let e : Event := ⟨cycle, 7, v⟩
    let drop (n : Nat) : Nat := min (n + 1) 0xFFFFFFFF
    ∃ t, exec (.wr7 (.slot n) v cycle) s = .next t ∧
      ChangedOnly s t n { sl with life := .live (
        if c.poolUsed + 2 ≤ hw.poolCap then
          { c with
            sh := c.sh.set 7 v
            queues := { c.queues with tone := c.queues.tone ++ [e], noise := c.queues.noise ++ [e] }
            poolUsed := c.poolUsed + 2 }
        else if c.poolUsed + 1 = hw.poolCap then
          { c with
            sh := c.sh.set 7 v
            queues := { c.queues with tone := c.queues.tone ++ [e] }
            poolUsed := c.poolUsed + 1
            overflowCount := drop c.overflowCount }
        else
          { c with sh := c.sh.set 7 v, overflowCount := drop (drop c.overflowCount) }) } 0

/-- WR0..WR6 and WR8..WR13 with the arena full: the shadow byte is still written, the event is dropped and one drop is
counted, status OK, nothing else changes (40_register_write.md R130, R132; 60_exceptions.md R323). -/
def Obligations.WriteToFullArenaDrops : Prop :=
  ∀ (r : PortIndex) (i : Reg) (s : State) (n : SlotNo) (sl : Slot) (c : Chip) (v : Byte) (cycle : Nat),
    i.val = r.val → r ≠ 7 → s.LiveAt n sl c → hw.poolCap ≤ c.poolUsed →
    ∃ t, exec (.wr r (.slot n) v cycle) s = .next t ∧
      ChangedOnly s t n { sl with life := .live (
        { c with
          sh := c.sh.set i v
          overflowCount := min (c.overflowCount + 1) 0xFFFFFFFF }) } 0

/-- WR14 and WR15 change nothing, full arena or not: they answer OK for a Live instance and E_INVAL for a handle that
names none (40_register_write.md R147, R148). -/
def Obligations.ReservedIndexWritesDoNothing : Prop :=
  ∀ (s : State) (sel : ChipSel) (v : Byte) (cycle : Nat),
    let st : Status := if (s.chip? sel).isSome then .ok else .eInval
    exec (.wr14 sel v cycle) s = .next { s with resp := some ⟨st, 0, 0, 0⟩ } ∧
    exec (.wr15 sel v cycle) s = .next { s with resp := some ⟨st, 0, 0, 0⟩ }

/-- A write that keeps the host obligation on stamps keeps every queue in stamp order (10_state.md R30,
40_register_write.md R150, 70_reset_and_hazards.md R358). -/
def Obligations.WriteKeepsStampOrder : Prop :=
  ∀ (r : PortIndex) (s t : State) (n : SlotNo) (c c' : Chip) (v : Byte) (cycle : Nat),
    s.chip? (.slot n) = some c → c.queues.Ordered → c.writeInOrder decisions r cycle →
    exec (.wr r (.slot n) v cycle) s = .next t → t.chip? (.slot n) = some c' → c'.queues.Ordered

/-- CYCLEADJUST lowers every queued stamp by exactly N, keeps the order of events, sets `poolUsed` to the number of
queued events, and changes nothing else (40_register_write.md R149). -/
def Obligations.CycleAdjustRebases : Prop :=
  ∀ (s : State) (n : SlotNo) (sl : Slot) (c : Chip) (elapsed : Nat), s.LiveAt n sl c →
    let shift (l : List Event) := l.map fun e => { e with ts := e.ts - elapsed }
    ∃ t, exec (.cycleAdjust (.slot n) elapsed) s = .next t ∧
      ChangedOnly s t n { sl with life := .live (
        { c with
          queues := ⟨shift c.queues.tone, shift c.queues.noise, shift c.queues.env⟩
          poolUsed := c.queues.tone.length + c.queues.noise.length + c.queues.env.length }) } 0

/-! ## RUN and BUFSIZE -/

/-- RUN on a Live instance with an engine bound, a span that is a multiple of 32 and a sink: OK; RES0 is the sample
count floor(N × rate / clock); that many samples are appended to PCM; the binding becomes Running; only committed
registers, queues, engine state and the two streams of this slot change (43_synthesis_engine.md R220, R221, R225; a count
that does not fit 32 bits answers a free value, log 7). -/
def Obligations.RunCompletes : Prop :=
  ∀ (s : State) (n : SlotNo) (sl : Slot) (c : Chip) (e : EngineState) (elapsed : Nat), s.LiveAt n sl c →
    c.binding.engine? = some e → elapsed % 32 = 0 →
    ∃ t x q e' pcm dump, exec (.run (.slot n) elapsed true) s = .next t ∧
      pcm.length = elapsed * c.sampleRateHz / c.clockHz ∧
      ChangedOnly s t n
        { life := .live { c with x := x, queues := q, binding := .running e' }
          pcm := sl.pcm ++ pcm
          dump := sl.dump ++ dump } (resultWord (elapsed * c.sampleRateHz / c.clockHz))

/-- RUN on a Live instance fails and changes nothing: E_INVAL for a span that is no multiple of 32, then E_INVAL for no
sink, then E_STATE for no engine, in this order (43_synthesis_engine.md R220, R233; 60_exceptions.md R328). -/
def Obligations.RunFailures : Prop :=
  ∀ (s : State) (n : SlotNo) (c : Chip) (elapsed : Nat) (bufv : Bool), s.chip? (.slot n) = some c →
    (elapsed % 32 ≠ 0 → exec (.run (.slot n) elapsed bufv) s = .next (s.failedWith .eInval)) ∧
    (elapsed % 32 = 0 → bufv = false → exec (.run (.slot n) elapsed bufv) s = .next (s.failedWith .eInval)) ∧
    (elapsed % 32 = 0 → bufv = true → c.binding = .unconfigured →
      exec (.run (.slot n) elapsed bufv) s = .next (s.failedWith .eState))

/-- After a RUN of N cycles on queues in stamp order, each queue holds exactly its events with stamp N or above, in
their old order, and `poolUsed` is as before (43_synthesis_engine.md R223, 20_memory.md R72, 10_state.md R32). -/
def Obligations.RunDrainsDueEvents : Prop :=
  ∀ (s t : State) (n : SlotNo) (c c' : Chip) (e : EngineState) (elapsed : Nat),
    s.chip? (.slot n) = some c → c.binding.engine? = some e → c.queues.Ordered → elapsed % 32 = 0 →
    exec (.run (.slot n) elapsed true) s = .next t → t.chip? (.slot n) = some c' →
    c'.poolUsed = c.poolUsed ∧
    ∀ id, c'.queues.get id = (c.queues.get id).filter fun ev => decide ((elapsed : Int) ≤ ev.ts)

/-- After a RUN of N cycles on queues in stamp order, every register holds the value of the last event for it stamped
below N, last by stamp, then tone before noise before envelope queue, then place in the queue, or its old value if there
is none. So a register whose queued events all stand in one queue holds the last due one there, and the mixer register
with the same copies in the tone and the noise queue holds the last due copy (43_synthesis_engine.md R223, R224, R226;
20_memory.md R72, R73; 40_register_write.md R140, R150). -/
def Obligations.RunCommitsLastDueWrite : Prop :=
  ∀ (s t : State) (n : SlotNo) (c c' : Chip) (e : EngineState) (elapsed : Nat),
    s.chip? (.slot n) = some c → c.binding.engine? = some e → c.queues.Ordered → elapsed % 32 = 0 →
    exec (.run (.slot n) elapsed true) s = .next t → t.chip? (.slot n) = some c' →
    let lastDue (id : QueueId) (i : Reg) : Byte :=
      (((c.queues.get id).filter fun ev => decide (ev.reg = i ∧ ev.ts < (elapsed : Int))).getLast?.map Event.val).getD
        (c.x.get i)
    let copies (l : List Event) : List Event := l.filter fun ev => decide (ev.reg = 7)
    (∀ i, c.queues.Commits tieOrder (elapsed - 1) i (c.x.get i) (c'.x.get i)) ∧
    (∀ i id, (∀ id', id' ≠ id → ∀ ev ∈ c.queues.get id', ev.reg ≠ i) → c'.x.get i = lastDue id i) ∧
    (copies c.queues.tone = copies c.queues.noise → copies c.queues.env = [] → c'.x.get 7 = lastDue .tone 7)

/-- A RUN of Pulse or of StepBandlimited on queues in stamp order. Tick k of the K = N/8 has the registers `x k` in force,
those once the events stamped up to 8k have been applied; the generators stand at `g k` before it, and at `h k` once an
event for register 13 that came due since the last tick has restarted the envelope; the tick's sample is mixed from `x k`
and `h k`, and the generators step from there. Events stamped between the last tick and N are committed and not heard;
those at N or above stay queued. Pulse emits as sample j of n the sample of tick floor(j × K / n) and leaves the filter
state; StepBandlimited emits what BlepOut makes of the old filter state and the K tick samples, and keeps the new filter
state it answers (43_synthesis_engine.md R221, R223, R224, R227, R228, R231, R232; 44_generators.md R260, R263, R266; RES0
for a count that does not fit 32 bits is log 7). In a block with no output sample, a span of 0 among them, the filter state
BlepOut answers is kept too: the model's choice, log 23. -/
def Obligations.RunEmitsMixedTicks : Prop :=
  ∀ (s : State) (n : SlotNo) (sl : Slot) (c : Chip) (e : EngineState) (elapsed : Nat), s.LiveAt n sl c →
    c.engineKind ≠ .debugDump → c.binding.engine? = some e → c.queues.Ordered → elapsed % 32 = 0 →
    let ticks := elapsed / 8
    let count := elapsed * c.sampleRateHz / c.clockHz
    let restarted (due : Event → Prop) (before after : EngineState) : Prop :=
      let event : Prop := ∃ id, ∃ ev ∈ c.queues.get id, ev.reg = 13 ∧ due ev
      (event → after = { before with envPos := 0, envCnt := 0 }) ∧ (¬ event → after = before)
    ∃ (x : Nat → RegFile) (g h : Nat → EngineState) (x' : RegFile) (q' : Queues) (e' : EngineState) (t : State),
      exec (.run (.slot n) elapsed true) s = .next t ∧
      g 0 = e ∧
      (∀ k < ticks,
        (∀ i, c.queues.Commits tieOrder (8 * k) i (c.x.get i) ((x k).get i)) ∧
        restarted (fun ev => ev.ts ≤ 8 * k ∧ (k = 0 ∨ 8 * (k : Int) - 8 < ev.ts)) (g k) (h k) ∧
        g (k + 1) = stepGenerators decisions (x k) (h k)) ∧
      (∀ i, c.queues.Commits tieOrder (elapsed - 1) i (c.x.get i) (x'.get i)) ∧
      (∀ id, q'.get id = (c.queues.get id).filter fun ev => decide ((elapsed : Int) ≤ ev.ts)) ∧
      restarted (fun ev => ev.ts < elapsed ∧ (elapsed = 0 ∨ (elapsed : Int) - 8 < ev.ts)) (g ticks) e' ∧
      let mixed (k : Nat) : Sample := mixSample decisions s.g.volTable c.muteRep (x k) (h k)
      let out : List Sample × Nat :=
        if c.engineKind = .pulse then ((List.range count).map fun j => mixed (j * ticks / count), e.filter)
        else hw.blepOut e.filter ((List.range ticks).map mixed) ticks count
      ChangedOnly s t n
        { life := .live { c with x := x', queues := q', binding := .running { e' with filter := out.2 } }
          pcm := sl.pcm ++ out.1
          dump := sl.dump } (resultWord count)

/-- RUN N, then CYCLEADJUST N, on queues in stamp order: no queued stamp is negative afterwards
(40_register_write.md R149 a). -/
def Obligations.RebaseAfterRunStaysNonNegative : Prop :=
  ∀ (s t u : State) (n : SlotNo) (c c' : Chip) (e : EngineState) (elapsed : Nat),
    s.chip? (.slot n) = some c → c.binding.engine? = some e → c.queues.Ordered → elapsed % 32 = 0 →
    exec (.run (.slot n) elapsed true) s = .next t → exec (.cycleAdjust (.slot n) elapsed) t = .next u →
    u.chip? (.slot n) = some c' → ∀ id, ∀ ev ∈ c'.queues.get id, 0 ≤ ev.ts

/-- Register-state equivalence: from equal committed registers, queues, `poolUsed`, rate and clock a RUN of the same
span leaves equal committed registers, queues and `poolUsed` and returns the same count under any two engines, whatever
else differs; and between Pulse and StepBandlimited with equal generator state the generator state stays equal too
(43_synthesis_engine.md R230). -/
def Obligations.EnginesAgreeOnRegisters : Prop :=
  ∀ (s₁ s₂ t₁ t₂ : State) (n₁ n₂ : SlotNo) (c₁ c₂ d₁ d₂ : Chip) (e₁ e₂ : EngineState) (elapsed : Nat),
    s₁.chip? (.slot n₁) = some c₁ → s₂.chip? (.slot n₂) = some c₂ →
    c₁.binding.engine? = some e₁ → c₂.binding.engine? = some e₂ → elapsed % 32 = 0 →
    c₁.x = c₂.x → c₁.queues = c₂.queues → c₁.poolUsed = c₂.poolUsed →
    c₁.sampleRateHz = c₂.sampleRateHz → c₁.clockHz = c₂.clockHz →
    exec (.run (.slot n₁) elapsed true) s₁ = .next t₁ → exec (.run (.slot n₂) elapsed true) s₂ = .next t₂ →
    t₁.chip? (.slot n₁) = some d₁ → t₂.chip? (.slot n₂) = some d₂ →
    d₁.x = d₂.x ∧ d₁.queues = d₂.queues ∧ d₁.poolUsed = d₂.poolUsed ∧ t₁.resp = t₂.resp ∧
    (c₁.engineKind ≠ .debugDump → c₂.engineKind ≠ .debugDump → { e₁ with filter := 0 } = { e₂ with filter := 0 } →
      ∀ e₁' e₂', d₁.binding.engine? = some e₁' → d₂.binding.engine? = some e₂' →
        { e₁' with filter := 0 } = { e₂' with filter := 0 })

/-- Silent defaults: an instance with the power-on registers, no queued event, a freshly reset engine and a table built
by either model emits only zero samples, under every engine and mask (44_generators.md R267). -/
def Obligations.PowerOnRegistersAreSilent : Prop :=
  ∀ (s : State) (n : SlotNo) (sl : Slot) (c : Chip) (m : VolModel) (peak elapsed : Nat), s.LiveAt n sl c →
    c.x = powerOnRegisters → c.queues = ⟨[], [], []⟩ → c.binding = .configured freshEngine →
    s.g.volTable = buildVolumeTable hw decisions m peak → elapsed % 32 = 0 →
    ∃ t sl', exec (.run (.slot n) elapsed true) s = .next t ∧ t.slot? (.slot n) = some sl' ∧
      sl'.pcm = sl.pcm ++ List.replicate (elapsed * c.sampleRateHz / c.clockHz) 0

/-- A RUN of the DebugDump engine: zero samples, and one dump record for each event that left a queue, in application
order: the queues give up their fronts, each in its own order, and of queues in stamp order the records come by stamp,
among equal stamps tone before noise before envelope (43_synthesis_engine.md R229, R224, R226). That this engine keeps an
engine-private state, left as it was, is deduced (log 12). -/
def Obligations.DebugDumpRecordsEachAppliedEvent : Prop :=
  ∀ (s : State) (n : SlotNo) (sl : Slot) (c : Chip) (e : EngineState) (elapsed : Nat), s.LiveAt n sl c →
    c.engineKind = .debugDump → c.binding.engine? = some e → elapsed % 32 = 0 →
    ∃ (t : State) (sl' : Slot) (c' : Chip) (applied : List (QueueId × Event)),
      exec (.run (.slot n) elapsed true) s = .next t ∧ t.LiveAt n sl' c' ∧
      sl'.pcm = sl.pcm ++ List.replicate (elapsed * c.sampleRateHz / c.clockHz) 0 ∧
      c'.binding = .running e ∧
      sl'.dump = sl.dump ++ applied.map (fun a => dumpRecord 32 a.1 a.2) ∧
      (∀ id, c.queues.get id = (applied.filter fun a => decide (a.1 = id)).map Prod.snd ++ c'.queues.get id) ∧
      (c.queues.Ordered → applied.Pairwise fun a b =>
        a.2.ts < b.2.ts ∨ a.2.ts = b.2.ts ∧ tieOrder a.1 ≤ tieOrder b.1)

/-- A RUN reads the shared table and its own instance and nothing of any other instance: two states that agree on the
table and on the slot leave that slot and the answer equal (20_memory.md R75). -/
def Obligations.RunIgnoresOtherInstances : Prop :=
  ∀ (s₁ s₂ t₁ t₂ : State) (n : SlotNo) (elapsed : Nat) (bufv : Bool), s₁.g.volTable = s₂.g.volTable →
    s₁.slot? (.slot n) = s₂.slot? (.slot n) → exec (.run (.slot n) elapsed bufv) s₁ = .next t₁ →
    exec (.run (.slot n) elapsed bufv) s₂ = .next t₂ →
    t₁.slot? (.slot n) = t₂.slot? (.slot n) ∧ t₁.resp = t₂.resp

/-- NextDue names the queue with the smallest due head, the tone queue before the noise queue before the envelope queue
among equal stamps, and no queue if no head is due; only heads are compared (43_synthesis_engine.md R226). -/
def Obligations.NextDueIsEarliestHead : Prop :=
  ∀ (q : Queues) (lim : Int),
    (q.nextDue queueRank lim = none ↔ ∀ id e rest, q.get id = e :: rest → lim < e.ts) ∧
    ∀ id, q.nextDue queueRank lim = some id ↔
      ∃ e rest, q.get id = e :: rest ∧ e.ts ≤ lim ∧
        ∀ id' e' rest', q.get id' = e' :: rest' → e.ts < e'.ts ∨ e.ts = e'.ts ∧ tieOrder id ≤ tieOrder id'

/-- ApplyEvent writes the committed register; DebugDump appends one record and touches no engine state; the other
engines append none, and restart the envelope exactly for register 13 (43_synthesis_engine.md R224). -/
def Obligations.ApplyEventEffect : Prop :=
  ∀ (kind : EngineKind) (id : QueueId) (e : Event) (w : Synth),
    (applyEvent design kind id e w).x = w.x.set e.reg e.val ∧ (applyEvent design kind id e w).queues = w.queues ∧
    (kind = .debugDump → (applyEvent design kind id e w).dump = w.dump ++ [dumpRecord 32 id e] ∧
      (applyEvent design kind id e w).eng = w.eng) ∧
    (kind ≠ .debugDump → (applyEvent design kind id e w).dump = w.dump ∧
      (applyEvent design kind id e w).eng = if e.reg = 13 then { w.eng with envPos := 0, envCnt := 0 } else w.eng)

/-- PulseOut takes, for output sample j of n, the internal sample floor(j × K / n), which exists (43_synthesis_engine.md
R231). -/
def Obligations.PulseOutSamples : Prop :=
  ∀ (s : List Sample) (n : Nat), (pulseOut s s.length n).length = n ∧
    ∀ j (hj : j < n) (hs : 0 < s.length),
      ∃ h : j * s.length / n < s.length, (pulseOut s s.length n)[j]? = some s[j * s.length / n]

/-- BUFSIZE answers floor(N × rate / clock) and changes nothing, in any binding and for any N, aligned or not
(43_synthesis_engine.md R222, R225). A number below 2^32 is its result word (30_encoding.md R93); a count that does not fit
answers a free value (log 7). -/
def Obligations.BufSizeAnswers : Prop :=
  (∀ (s : State) (n : SlotNo) (sl : Slot) (c : Chip) (elapsed : Nat), s.LiveAt n sl c →
    exec (.bufSize (.slot n) elapsed) s =
      .next { s with resp := some ⟨.ok, resultWord (elapsed * c.sampleRateHz / c.clockHz), 0, 0⟩ }) ∧
  ∀ v, v < 2 ^ 32 → (resultWord v).toNat = v

/-- The sequencing rules, under every open parameter and every design (00_scope.md R5): a RUN on queues in stamp order
takes exactly the events stamped up to the design's last stamp of the span, which lies below N, leaves each register with
the last of them for it, in the design's order of the queues among equal stamps, keeps `poolUsed`, yields the design's
number of samples from N/8 ticks, appends what the design's layout makes of them, and answers the design's response for
that number (43_synthesis_engine.md R220, R223, R225, R226). This is said of the instance `c'` as its engine leaves it; the
slot holds what the design's `alsoRun` makes of it, which in the spec's design is `c'` itself, as the layout there is the
samples themselves. What a design may vary and the laws it has (here `due_le_last`, `last_lt`, `rank_inj`, the lengths of
samples) are the model's choice, log 18. -/
def Obligations.EveryDesignSequencesAlike : Prop :=
  ∀ (P : Params) (D : Design) (s : State) (n : SlotNo) (sl : Slot) (c : Chip) (e : EngineState) (elapsed : Nat),
    s.LiveAt n sl c → c.binding.engine? = some e → c.queues.Ordered → elapsed % 32 = 0 →
    let count := D.written c.engineKind (D.sampleCount c elapsed)
    let last := D.decisions.sequence.last elapsed
    let t := command P D (.run (.slot n) elapsed true) s
    ∃ sl' c' ticks out, t.LiveAt n sl' (D.decisions.transitions.alsoRun elapsed c c') ∧ last < elapsed ∧
      (∀ id, c'.queues.get id = (c.queues.get id).filter fun ev => decide (last < ev.ts)) ∧
      (∀ i, c.queues.Commits D.decisions.sequence.rank last i (c.x.get i) (c'.x.get i)) ∧
      c'.poolUsed = c.poolUsed ∧ ticks.length = elapsed / 8 ∧ out.length = count ∧
      sl'.pcm = sl.pcm ++ D.layout c.engineKind s.g.volTable c.muteRep ticks out ∧
      t.resp = some (D.decisions.reports.answer .run .done (D.decisions.reports.runWord count) 0 0)

/-! ## Generators and mixer -/

/-- The tone generator of each channel under the committed registers, TP = { x[2ch+1][3:0], x[2ch] }, 0 counted as 1: a
tick of the generators counts on, and flips the phase with a fresh count at TP or above; so from a fresh count the output
is a square wave of half-period TP ticks (44_generators.md R261, R260; 10_state.md R23). -/
def Obligations.ToneHalfPeriod : Prop :=
  ∀ (x : RegFile) (e : EngineState) (ch : Channel),
    let bytes : Byte × Byte := match ch with
      | .a => (x.get 1, x.get 0)
      | .b => (x.get 3, x.get 2)
      | .c => (x.get 5, x.get 4)
    let period := max 1 (bytes.1.toNat % 16 * 256 + bytes.2.toNat)
    let after (k : Nat) : ToneGen := ((stepGenerators decisions x)^[k] e).tone.get ch
    let now : ToneGen := e.tone.get ch
    (after 1 = if period ≤ now.count.toNat + 1 then ⟨0, !now.phase⟩ else ⟨now.count + 1, now.phase⟩) ∧
    (now.count = 0 → (∀ k, k < period → after k = ⟨BitVec.ofNat 12 k, now.phase⟩) ∧ after period = ⟨0, !now.phase⟩)

/-- The noise generator. Its register shifts right by one, the feedback of bits 0 and 3 entering at bit 16; it never
becomes zero, and no value has two predecessors. Under the committed registers, NP = x[6][4:0], 0 counted as 1: a tick
counts on, and shifts with a fresh count at 2·NP or above; so from a fresh count it shifts once every 2·NP ticks
(44_generators.md R262, R260; 10_state.md R24). -/
def Obligations.NoiseRegisterRuns : Prop :=
  (∀ v : BitVec 17, (∀ j < 16, (shiftLfsr v).getLsbD j = v.getLsbD (j + 1)) ∧
    (shiftLfsr v).getLsbD 16 = (v.getLsbD 0 ^^ v.getLsbD 3)) ∧
  (∀ v : BitVec 17, v ≠ 0 → shiftLfsr v ≠ 0) ∧ (∀ v v' : BitVec 17, shiftLfsr v = shiftLfsr v' → v = v') ∧
  ∀ (x : RegFile) (e : EngineState),
    let np := max 1 ((x.get 6).toNat % 32)
    let after (k : Nat) : BitVec 6 × BitVec 17 :=
      (((stepGenerators decisions x)^[k] e).noiseCnt, ((stepGenerators decisions x)^[k] e).lfsr)
    (after 1 = if 2 * np ≤ e.noiseCnt.toNat + 1 then (0, shiftLfsr e.lfsr) else (e.noiseCnt + 1, e.lfsr)) ∧
    (e.noiseCnt = 0 →
      (∀ k, k < 2 * np → after k = (BitVec.ofNat 6 k, e.lfsr)) ∧ after (2 * np) = (0, shiftLfsr e.lfsr))

/-- ShapeLevel: a 5-bit level; a first ramp of 32 steps, up or down by ATT (bit 2); then 0 without CONT (bit 3); with it
and HOLD (bit 0) the level 31 or 0 as ATT and ALT (bit 1) differ or not; with CONT and no HOLD ramps of 32 steps, up or
down by ATT, turned round in every other ramp by ALT; so from position 32 on it has period 64 (44_generators.md R264,
R263; 10_state.md R28). -/
def Obligations.EnvelopeShape : Prop :=
  ∀ (shape : BitVec 4) (p : Nat),
    let hold := shape.getLsbD 0
    let alt := shape.getLsbD 1
    let att := shape.getLsbD 2
    let cont := shape.getLsbD 3
    let level (q : Nat) : Nat := shapeLevel bitFields shape q
    level p ≤ 31 ∧
    (p < 32 → level p = if att then p else 31 - p) ∧
    (32 ≤ p → cont = false → level p = 0) ∧
    (32 ≤ p → cont = true → hold = true → level p = if att = alt then 0 else 31) ∧
    (32 ≤ p → cont = true → hold = false →
      level p = if (att ^^ (alt && decide (p / 32 % 2 = 1))) then p % 32 else 31 - p % 32) ∧
    (32 ≤ p → level (p + 64) = level p)

/-- The envelope generator under the committed registers, EP = { x[12], x[11] }, 0 counted as 1: a tick counts on, and
moves one position up with a fresh count at EP or above; so from a fresh count it moves once every EP ticks. The
generators leave the filter state alone (44_generators.md R263, R260; 10_state.md R27). -/
def Obligations.EnvelopeStepPeriod : Prop :=
  ∀ (x : RegFile) (e : EngineState),
    let ep := max 1 ((x.get 12).toNat * 256 + (x.get 11).toNat)
    let after (k : Nat) : BitVec 16 × Nat :=
      (((stepGenerators decisions x)^[k] e).envCnt, ((stepGenerators decisions x)^[k] e).envPos)
    (after 1 = if ep ≤ e.envCnt.toNat + 1 then (0, e.envPos + 1) else (e.envCnt + 1, e.envPos)) ∧
    (e.envCnt = 0 → (∀ k, k < ep → after k = (BitVec.ofNat 16 k, e.envPos)) ∧ after ep = (0, e.envPos + 1)) ∧
    ∀ k, ((stepGenerators decisions x)^[k] e).filter = e.filter

/-- Level select: with v = x[8+ch], the envelope level of shape x[13][3:0] where bit 4 of v is set, else LevelFixed of
v[3:0]: 0 for 0, else 2V + 1 (44_generators.md R265; 10_state.md R26, R28). -/
def Obligations.LevelSelect : Prop :=
  ∀ (x : RegFile) (e : EngineState) (ch : Channel),
    let v : Byte := match ch with
      | .a => x.get 8
      | .b => x.get 9
      | .c => x.get 10
    (channelLevel decisions x e ch).toNat =
      if v.getLsbD 4 then shapeLevel bitFields ((x.get 13).setWidth 4) e.envPos
      else if v.toNat % 16 = 0 then 0 else 2 * (v.toNat % 16) + 1

/-- The mixer. A channel's gate is open when its tone output (the complement of its phase) or its bit of mixer bits 2:0 is
1, and the noise output (bit 0 of the noise register) or its bit of mixer bits 5:3 is 1; its gated level is its level
where the gate is open, else 0 (44_generators.md R266, 10_state.md R25). MUTE_LUT is as listed; the mixer ANDs it onto the
packed triple, so that it reads the table entry of the triple of gated levels with a muted channel's level replaced by 0,
whatever the mixer register says (10_state.md R36, R40). -/
def Obligations.MutedChannelsReadLevelZero : Prop :=
  (∀ (x : RegFile) (e : EngineState) (ch : Channel),
    let mix : Byte := x.get 7
    let gate : Bool := match ch with
      | .a => (!e.tone.a.phase || mix.getLsbD 0) && (e.lfsr.getLsbD 0 || mix.getLsbD 3)
      | .b => (!e.tone.b.phase || mix.getLsbD 1) && (e.lfsr.getLsbD 0 || mix.getLsbD 4)
      | .c => (!e.tone.c.phase || mix.getLsbD 2) && (e.lfsr.getLsbD 0 || mix.getLsbD 5)
    gatedLevel decisions x e ch = if gate then channelLevel decisions x e ch else 0) ∧
  (List.finRange 8).map (fun m => (muteLut (BitVec.ofFin m)).toNat) =
    [0x0000, 0x001F, 0x03E0, 0x03FF, 0x7C00, 0x7C1F, 0x7FE0, 0x7FFF] ∧
  (∀ (t : VolTable) (la lb lc : Level), (packLevels la lb lc).toNat = la.toNat + 32 * lb.toNat + 1024 * lc.toNat ∧
    t.read decisions (packLevels la lb lc) = ((t.get lc.toFin).get lb.toFin).get la.toFin) ∧
  ∀ (t : VolTable) (mask : BitVec 3) (x : RegFile) (e : EngineState),
    mixSample decisions t (muteLut mask) x e =
      t.read decisions (packLevels (if mask.getLsbD 0 then gatedLevel decisions x e .a else 0)
        (if mask.getLsbD 1 then gatedLevel decisions x e .b else 0)
        (if mask.getLsbD 2 then gatedLevel decisions x e .c else 0))

/-! ## The volume table -/

/-- The table entry of a triple of levels is floor(peak × (C(a) + C(b) + C(c)) / (3 × CMAX)) exactly, for both models,
and lies in 0..peak (42_volume_table.md R201, R202, R203). -/
def Obligations.VolumeTableFormula : Prop :=
  ∀ (P : Params) (m : VolModel) (peak : Nat) (la lb lc : Level), peak ≤ 32767 →
    let C (l : Level) : Nat := match m with
      | .linear => l.toNat
      | .nonlinear => P.curve l.toFin
    let entry : Int := VolTable.read decisions (buildVolumeTable P decisions m peak) (packLevels la lb lc)
    entry = (peak * (C la + C lb + C lc) / (3 * C 31) : Nat) ∧ 0 ≤ entry ∧ entry ≤ peak

/-- The volume table is monotonic: raising one channel's level never lowers the entry's magnitude
(42_volume_table.md R205). -/
def Obligations.VolumeTableMonotone : Prop :=
  ∀ (P : Params) (m : VolModel) (peak : Nat) (la lb lc l : Level), peak ≤ 32767 →
    let mag (a b c : Level) : Nat :=
      (VolTable.read decisions (buildVolumeTable P decisions m peak) (packLevels a b c)).natAbs
    (la ≤ l → mag la lb lc ≤ mag l lb lc) ∧ (lb ≤ l → mag la lb lc ≤ mag la l lc) ∧
      (lc ≤ l → mag la lb lc ≤ mag la lb l)

/-- SET_VOLMODEL: a non-null handle that names no Live instance fails with E_INVAL, then an uninitialised block with
E_STATE, both changing nothing; else ids 1 and 2 put their model in force and every other id keeps the one in force,
unknown ids with a notice; the table is rebuilt with PEAK_LEVEL exactly on a change of model; RES0 is the model's id;
nothing else changes (42_volume_table.md R204). -/
def Obligations.SetVolModelSelects : Prop :=
  ∀ (s : State) (sel : ChipSel) (id : Word),
    let m : VolModel := if id = 1 then .nonlinear else if id = 2 then .linear else s.g.volModel
    (sel ≠ .null → s.chip? sel = none → exec (.setVolModel sel id) s = .next (s.failedWith .eInval)) ∧
    ((sel = .null ∨ (s.chip? sel).isSome) → s.g.init = false →
      exec (.setVolModel sel id) s = .next (s.failedWith .eState)) ∧
    ((sel = .null ∨ (s.chip? sel).isSome) → s.g.init = true →
      exec (.setVolModel sel id) s = .next
        { s with
          g :=
            { s.g with
              volModel := m
              volTable := if m = s.g.volModel then s.g.volTable else buildVolumeTable hw decisions m hw.peakLevel }
          diag := if id ∈ [0, 1, 2, 0xFFFFFFFF] then s.diag else s.diag ++ [.volModel id]
          resp := some ⟨.ok, if m = .nonlinear then 1 else 2, 0, 0⟩ })

/-! ## Mute, rate, engine -/

/-- SETACTIVE: a handle that names no Live instance fails with E_INVAL, then an uninitialised block with E_STATE, both
changing nothing; else clear first, set second, 3 bits, on the instance, whose mute representation follows, or with the
null handle on the default mask; RES0 is the new mask; nothing else changes (45_mute_rate_clock.md R300). -/
def Obligations.SetActiveComputesMask : Prop :=
  ∀ (s : State) (clr set : Word),
    let new (prev : BitVec 3) : BitVec 3 := (((prev.setWidth 32 &&& ~~~clr) ||| set) &&& 7).setWidth 3
    (∀ n, s.chip? (.slot n) = none → exec (.setActive (.slot n) clr set) s = .next (s.failedWith .eInval)) ∧
    (∀ sel, (sel = .null ∨ (s.chip? sel).isSome) → s.g.init = false →
      exec (.setActive sel clr set) s = .next (s.failedWith .eState)) ∧
    (∀ n sl c, s.LiveAt n sl c → s.g.init = true →
      ∃ t, exec (.setActive (.slot n) clr set) s = .next t ∧
        ChangedOnly s t n
          { sl with life := .live { c with activeMask := new c.activeMask, muteRep := muteLut (new c.activeMask) } }
          ((new c.activeMask).setWidth 32)) ∧
    (s.g.init = true → exec (.setActive .null clr set) s = .next
      { s with
        g := { s.g with defActive := new s.g.defActive }
        resp := some ⟨.ok, (new s.g.defActive).setWidth 32, 0, 0⟩ })

/-- SETRATE on a Live instance: the request clamped to [RATE_MIN, RATE_MAX], then adjusted by the engine if one is
bound; the effective rate lies in that range and is RES0; nothing else changes (45_mute_rate_clock.md R301, R304;
a rate that does not fit 32 bits answers a free value, log 7). -/
def Obligations.SetRateClampsAndAdjusts : Prop :=
  ∀ (s : State) (n : SlotNo) (sl : Slot) (c : Chip) (hz : Word), s.LiveAt n sl c →
    let clamped := max hw.rateMin (min hz.toNat hw.rateMax)
    let rate := if c.binding.engine?.isSome then hw.rateAdjust c.engineKind clamped else clamped
    hw.rateMin ≤ rate ∧ rate ≤ hw.rateMax ∧
    ∃ t, exec (.setRate (.slot n) hz) s = .next t ∧
      ChangedOnly s t n { sl with life := .live { c with sampleRateHz := rate } } (resultWord rate)

/-- SET_ENGINE on a Live instance, once initialised: QUERY answers the current id and changes nothing; any other id
resolves to a kind (unknown ones to the default with a notice), the rate is re-adjusted, setup runs; if it succeeds the
binding is Configured with a freshly reset engine and the status OK, else the binding is Unconfigured and the status
E_SETUP; RES0 is the kind's id; nothing else of the instance or of another slot changes (45_mute_rate_clock.md R302,
30_encoding.md R98, 00_scope.md R12; that R93 allows the id with E_SETUP is log 14; the draw of setup is log 2). -/
def Obligations.SetEngineOnInstance : Prop :=
  ∀ (s : State) (n : SlotNo) (sl : Slot) (c : Chip) (id : Word), s.LiveAt n sl c → s.g.init = true →
    (id = 0xFFFFFFFF → exec (.setEngine (.slot n) id) s =
      .next { s with resp := some ⟨.ok, engineNumber c.engineKind, 0, 0⟩ }) ∧
    (id ≠ 0xFFFFFFFF →
      let kind : EngineKind := if id = 1 then .pulse else if id = 2 then .stepBandlimited
        else if id = 3 then .debugDump else s.g.defEngine
      let rate := hw.rateAdjust kind c.sampleRateHz
      let ok := hw.setupOk s.draws kind rate
      ∃ t, exec (.setEngine (.slot n) id) s = .next t ∧
        t.slot? (.slot n) = some { sl with life := .live (
          { c with
            engineKind := kind
            sampleRateHz := rate
            binding := if ok then .configured freshEngine else .unconfigured }) } ∧
        SameOtherSlots s t n ∧ t.g = s.g ∧ t.cmds = s.cmds ∧ t.draws = s.draws + 1 ∧
        t.diag = (if id ∈ [0, 1, 2, 3] then s.diag else s.diag ++ [.engine id]) ∧
        t.Answered (if ok then .ok else .eSetup) (engineNumber kind) 0 0)

/-- SET_ENGINE with the null handle, once initialised, changes the default engine and nothing else, unknown ids leaving
it with a notice (45_mute_rate_clock.md R302). -/
def Obligations.SetEngineOnDefault : Prop :=
  ∀ (s : State) (id : Word), s.g.init = true →
    let kind : EngineKind := if id = 1 then .pulse else if id = 2 then .stepBandlimited
      else if id = 3 then .debugDump else s.g.defEngine
    exec (.setEngine .null id) s = .next
      { s with
        g := { s.g with defEngine := kind }
        diag := if id ∈ [0, 1, 2, 3, 0xFFFFFFFF] then s.diag else s.diag ++ [.engine id]
        resp := some ⟨.ok, engineNumber kind, 0, 0⟩ }

/-! ## Lifecycle -/

/-- CONFIGURE on a Live instance: kind, clock and rate are negotiated (unknown id to the default, any clock to CLOCK_HZ,
each with a notice, rate clamped then adjusted), the engine is set up afresh; OK and Configured with a reset engine, or
E_SETUP and Unconfigured; the three effective values are the result words; registers, queues, counters and mask stay
(41_lifecycle.md R174, 45_mute_rate_clock.md R303; the draw of setup is log 2, a value that does not fit 32 bits log 7). -/
def Obligations.ConfigureNegotiates : Prop :=
  ∀ (s : State) (n : SlotNo) (sl : Slot) (c : Chip) (id clk hz : Word), s.LiveAt n sl c →
    let kind : EngineKind := if id = 1 then .pulse else if id = 2 then .stepBandlimited
      else if id = 3 then .debugDump else if id = 0xFFFFFFFF then c.engineKind else s.g.defEngine
    let rate := hw.rateAdjust kind (max hw.rateMin (min hz.toNat hw.rateMax))
    let ok := hw.setupOk s.draws kind rate
    ∃ t, exec (.configure (.slot n) id clk hz) s = .next t ∧
      t.slot? (.slot n) = some { sl with life := .live (
        { c with
          engineKind := kind
          clockHz := hw.clockHz
          sampleRateHz := rate
          binding := if ok then .configured freshEngine else .unconfigured }) } ∧
      SameOtherSlots s t n ∧ t.g = s.g ∧ t.cmds = s.cmds ∧ t.draws = s.draws + 1 ∧
      t.diag = s.diag ++ (if id ∈ [0, 1, 2, 3, 0xFFFFFFFF] then [] else [.engine id]) ++
        (if clk.toNat = hw.clockHz then [] else [.clock clk]) ∧
      t.Answered (if ok then .ok else .eSetup) (engineNumber kind) (resultWord hw.clockHz) (resultWord rate)

/-- CREATE on a slot that is not Live, once initialised: a fresh instance with the power-on registers, empty queues and
streams, the global defaults, and the default engine set up: OK and Configured with a reset engine, or E_SETUP and
Unconfigured; engine id, clock and rate are the result words; nothing else changes (41_lifecycle.md R172, 10_state.md
R46; the draw of setup is log 2, a value that does not fit 32 bits log 7). -/
def Obligations.CreateBuildsInstance : Prop :=
  ∀ (s : State) (n : SlotNo) (sl : Slot), s.slot? (.slot n) = some sl → sl.chip? = none → s.g.init = true →
    let rate := hw.rateAdjust s.g.defEngine s.g.defRate
    let ok := hw.setupOk s.draws s.g.defEngine rate
    ∃ t, exec (.create (.slot n)) s = .next t ∧
      t.slot? (.slot n) = some
        { life := .live
            { sh := powerOnRegisters
              x := powerOnRegisters
              queues := ⟨[], [], []⟩
              poolUsed := 0
              overflowCount := 0
              activeMask := s.g.defActive
              muteRep := muteLut s.g.defActive
              engineKind := s.g.defEngine
              binding := if ok then .configured freshEngine else .unconfigured
              sampleRateHz := rate
              clockHz := hw.clockHz }
          pcm := []
          dump := [] } ∧
      SameOtherSlots s t n ∧ t.g = s.g ∧ t.cmds = s.cmds ∧ t.diag = s.diag ∧ t.draws = s.draws + 1 ∧
      t.Answered (if ok then .ok else .eSetup) (engineNumber s.g.defEngine) (resultWord hw.clockHz) (resultWord rate)

/-- CREATE fails and changes nothing: E_INVAL for a handle that names no slot, else E_STATE before initialisation, else
E_STATE on a Live slot (41_lifecycle.md R172, 60_exceptions.md R322, R327, R328). -/
def Obligations.CreateFailures : Prop :=
  ∀ (s : State) (sel : ChipSel),
    (s.slot? sel = none → exec (.create sel) s = .next (s.failedWith .eInval)) ∧
    ((s.slot? sel).isSome → s.g.init = false → exec (.create sel) s = .next (s.failedWith .eState)) ∧
    ((s.chip? sel).isSome → exec (.create sel) s = .next (s.failedWith .eState))

/-- RESET on a Live instance: both register files at the power-on image, queues empty, counters 0, a bound engine reset
and Running made Configured; mask, engine, rate, clock, streams and everything else stay; `atCycle` has no effect
(41_lifecycle.md R173, R176). -/
def Obligations.ResetRestoresPowerOn : Prop :=
  ∀ (s : State) (n : SlotNo) (sl : Slot) (c : Chip) (atCycle : Nat), s.LiveAt n sl c →
    ∃ t, exec (.reset (.slot n) atCycle) s = .next t ∧
      ChangedOnly s t n { sl with life := .live (
        { c with
          sh := powerOnRegisters
          x := powerOnRegisters
          queues := ⟨[], [], []⟩
          poolUsed := 0
          overflowCount := 0
          binding := if c.binding = .unconfigured then .unconfigured else
            .configured freshEngine }) } 0

/-- CLEANUP on a Live instance: the slot becomes Destroyed, RES0 is the overflow count, a nonzero count is reported on
DIAG; nothing else changes (41_lifecycle.md R175; a count beyond 32 bits, in no reachable state, answers a free value, log
7). That the streams stay in the slot is deduced (log 11). -/
def Obligations.CleanupDestroysAndReports : Prop :=
  ∀ (s : State) (n : SlotNo) (sl : Slot) (c : Chip), s.LiveAt n sl c →
    ∃ t, exec (.cleanup (.slot n)) s = .next t ∧
      t.slot? (.slot n) = some { sl with life := .destroyed } ∧ SameOtherSlots s t n ∧
      t.g = s.g ∧ t.cmds = s.cmds ∧ t.draws = s.draws ∧
      t.diag = s.diag ++ (if c.overflowCount = 0 then [] else [.overflow n c.overflowCount]) ∧
      t.Answered .ok (resultWord c.overflowCount) 0 0

/-- GLOBAL_INIT: before initialisation it establishes the table of the Linear model at PEAK_LEVEL and the built-in
defaults, makes every slot Absent and leaves DIAG; once initialised it fails with E_STATE (41_lifecycle.md R170). That
the streams stay in the slots is deduced (log 11). -/
def Obligations.GlobalInitEstablishes : Prop :=
  ∀ s : State,
    (s.g.init = false → exec .globalInit s = .next
      { s with
        g :=
          { init := true, volModel := .linear, volTable := buildVolumeTable hw decisions .linear hw.peakLevel
            defEngine := .pulse, defRate := hw.rateDefault, defClock := hw.clockHz, defActive := 0b111 }
        chips := s.chips.map fun sl => { sl with life := .absent }
        resp := some ⟨.ok, 0, 0, 0⟩ }) ∧
    (s.g.init = true → exec .globalInit s = .next (s.failedWith .eState))

/-- GLOBAL_SHUTDOWN: initialised and with no Live instance it clears `G.init`, makes every slot Absent and answers OK,
whatever the rest of `G` becomes; otherwise it fails with E_STATE (41_lifecycle.md R171; the rest of `G` is log 3, the
streams log 11). -/
def Obligations.GlobalShutdownCloses : Prop :=
  ∀ s : State,
    (s.g.init = true → s.anyLive = false → ∃ t, exec .globalShutdown s = .next t ∧ t.g.init = false ∧
      t.chips = s.chips.map (fun sl => { sl with life := .absent }) ∧ t.diag = s.diag ∧ t.cmds = s.cmds ∧
      t.Answered .ok 0 0 0) ∧
    (s.g.init = false ∨ s.anyLive = true → exec .globalShutdown s = .next (s.failedWith .eState))

/-- The moves of the binding state machine that a command other than the two which re-create a slot can make on an
instance that is Live before and after it: unbound to bound, and bound to unbound, by CONFIGURE and SET_ENGINE alone;
to Running by RUN alone; from Running to Configured by RESET, CONFIGURE and SET_ENGINE alone (41_lifecycle.md R180). -/
def Obligations.BindingStateMachine : Prop :=
  ∀ (i : Instr) (s t : State) (n : SlotNo) (c c' : Chip), exec i s = .next t →
    s.chip? (.slot n) = some c → t.chip? (.slot n) = some c' →
    let setsUp := (∃ a b d, i = .configure (.slot n) a b d) ∨ ∃ a, i = .setEngine (.slot n) a
    (c.binding.name = .unconfigured → c'.binding.name = .configured → setsUp) ∧
    (c.binding.name = .unconfigured → c'.binding.name ≠ .running) ∧
    (c.binding.name ≠ .unconfigured → c'.binding.name = .unconfigured → setsUp) ∧
    (c.binding.name = .configured → c'.binding.name = .running → ∃ m, i = .run (.slot n) m true) ∧
    (c.binding.name = .running → c'.binding.name = .configured → setsUp ∨ ∃ m, i = .reset (.slot n) m)

/-! ## Records and frames handed to the host -/

/-- The dump record, field by field, for a stamp that fits 32 bits (30_encoding.md R102). -/
def Obligations.DumpRecordLayout : Prop :=
  ∀ (id : QueueId) (e : Event), -2 ^ 31 ≤ e.ts → e.ts < 2 ^ 31 →
    ((dumpRecord 32 id e).extractLsb' 32 32).toInt = e.ts ∧ (dumpRecord 32 id e).extractLsb' 16 16 = 0 ∧
    (dumpRecord 32 id e).extractLsb' 14 2 = (match id with | .tone => 0 | .noise => 1 | .env => 2) ∧
    (dumpRecord 32 id e).extractLsb' 12 2 = 0 ∧ ((dumpRecord 32 id e).extractLsb' 8 4).toNat = e.reg.val ∧
    (dumpRecord 32 id e).extractLsb' 0 8 = e.val

/-- The response frame, field by field, with the status codes (30_encoding.md R93, 60_exceptions.md R321). -/
def Obligations.ResponseFrameLayout : Prop :=
  ∀ r : Response,
    (r.toBits decisions).extractLsb' 120 8 = (match r.status with | .ok => 0 | .eInval => 1 | .eState => 2 | .eSetup => 3) ∧
    (r.toBits decisions).extractLsb' 96 24 = 0 ∧ (r.toBits decisions).extractLsb' 64 32 = r.res0 ∧ (r.toBits decisions).extractLsb' 32 32 = r.res1 ∧
    (r.toBits decisions).extractLsb' 0 32 = r.res2
end

