-- ==== Sys2Proof/Laws/Design.lean ====
section
/-! SUPPORT. What the design of the spec holds, part by part, so that no proof unfolds it. -/

namespace Sys2Proof.Machine

open Sys2Proof.Config

@[simp] theorem design_decisions : design.decisions = decisions := rfl
@[simp] theorem design_pulseOut (f : Nat) (s : List Sample) (k n : Nat) :
    design.pulseOut f s k n = (pulseOut s k n, f) := rfl
@[simp] theorem design_stepGenerators (kind : EngineKind) (mute : BitVec 15) (x : RegFile) (e : EngineState) :
    design.model.stepGenerators kind mute x e = if generates kind then stepGenerators decisions x e else e := rfl
@[simp] theorem design_mixSample (kind : EngineKind) (t : VolTable) (mute : BitVec 15) (x : RegFile) (e : EngineState) :
    design.model.mixSample kind t mute x e = if generates kind then mixSample decisions t mute x e else 0 := rfl
@[simp] theorem design_sampleCount (c : Chip) (n : Nat) :
    design.sampleCount c n = sampleCount n c.sampleRateHz c.clockHz := rfl
@[simp] theorem design_written (kind : EngineKind) (n : Nat) : design.written kind n = n := rfl
@[simp] theorem design_layout (kind : EngineKind) (t : VolTable) (mute : BitVec 15)
    (ticks : List (RegFile × EngineState)) (out : List Sample) : design.layout kind t mute ticks out = out := rfl
@[simp] theorem design_debugOut : design.debugOut = debugOut := rfl
@[simp] theorem design_onEvent (kind : EngineKind) (r : Reg) (v : Byte) (e : EngineState) :
    design.model.onEvent kind r v e = if generates kind then onEvent decisions r e else e := rfl
@[simp] theorem design_engineReset : design.model.engineReset = engineReset decisions := rfl

/-- Every engine but DebugDump has generators. -/
theorem generates_iff {kind : EngineKind} : generates kind = true ↔ kind ≠ .debugDump := by
  cases kind <;> simp [generates]

@[simp] theorem generates_debugDump : generates .debugDump = false := rfl

@[simp] theorem decisions_map : decisions.map = registerMap := rfl
@[simp] theorem decisions_fields : decisions.fields = bitFields := rfl
@[simp] theorem decisions_envShape : registerMap.envShape = 13 := rfl
@[simp] theorem decisions_muteLut : decisions.levels.muteLut = muteLut := rfl
@[simp] theorem decisions_levelFixed : decisions.levels.levelFixed = levelFixed := rfl
@[simp] theorem decisions_levelEnv : decisions.levels.levelEnv = levelEnv := rfl
@[simp] theorem decisions_pack : decisions.levels.pack = packLevels := rfl
@[simp] theorem decisions_unpack : decisions.levels.unpack = unpackLevels := rfl
@[simp] theorem decisions_resetReg : decisions.defaults.resetReg = resetReg := rfl
@[simp] theorem decisions_builtinEngine : decisions.defaults.builtinEngine = .pulse := rfl
@[simp] theorem decisions_builtinVolModel : decisions.defaults.builtinVolModel = .linear := rfl
@[simp] theorem decisions_builtinActive : decisions.defaults.builtinActive = 0b111 := rfl
@[simp] theorem decisions_lfsrInit : decisions.defaults.lfsrInit = 1 := rfl
@[simp] theorem decisions_engineId : decisions.ids.engineId = engineId := rfl
@[simp] theorem decisions_modelId : decisions.ids.modelId = modelId := rfl
@[simp] theorem decisions_queryId : decisions.ids.queryId = 0xFFFFFFFF := rfl
@[simp] theorem decisions_statusCode : decisions.ids.statusCode = Status.code := rfl
@[simp] theorem decisions_command : decisions.frames.command = decode := rfl
@[simp] theorem decisions_tableEntry : decisions.levels.tableEntry = tableEntry := rfl
@[simp] theorem decisions_record (bits : Nat) (id : QueueId) (e : Event) :
    decisions.frames.record bits id e = [dumpRecord bits id e] := rfl
@[simp] theorem decisions_answer_done (cmd : CommandKind) (r0 r1 r2 : Word) :
    decisions.reports.answer cmd .done r0 r1 r2 = ⟨.ok, r0, r1, r2⟩ := rfl
@[simp] theorem decisions_answer_failed (cmd : CommandKind) (st : Status) (r0 r1 r2 : Word) :
    decisions.reports.answer cmd (.failed st) r0 r1 r2 = ⟨st, 0, 0, 0⟩ := rfl
@[simp] theorem decisions_answer_setup (cmd : CommandKind) (ok : Bool) (r0 r1 r2 : Word) :
    decisions.reports.answer cmd (setupEnding ok) r0 r1 r2 = ⟨if ok then .ok else .eSetup, r0, r1, r2⟩ := by
  cases ok <;> rfl
@[simp] theorem decisions_deadIsNull : decisions.checks.deadIsNull = false := rfl
@[simp] theorem decisions_stored (r : Reg) (v : Byte) : decisions.writes.stored r v = v := rfl
@[simp] theorem decisions_mixerQueues : decisions.writes.mixerQueues = [.tone, .noise] := rfl
@[simp] theorem decisions_accept (room : Nat) (ids : List QueueId) :
    decisions.writes.accept room ids = (ids.take room, ids.length - room) := rfl
@[simp] theorem decisions_countDrop : decisions.writes.countDrop = countDrop := rfl
@[simp] theorem decisions_reclaim (n : Nat) (q : Queues) : decisions.writes.reclaim n q = q.count := rfl
@[simp] theorem decisions_widths : decisions.widths = widths := rfl
@[simp] theorem widths_stamp : widths.stamp = 32 := rfl
@[simp] theorem widths_sample : widths.sample = 16 := rfl
@[simp] theorem widths_overflow : widths.overflow = 32 := rfl
@[simp] theorem decisions_last (n : Nat) : decisions.sequence.last n = (n : Int) - 1 := rfl
@[simp] theorem decisions_due (k : Nat) : decisions.sequence.due k = 8 * k := rfl
@[simp] theorem decisions_rank : decisions.sequence.rank = queueRank := rfl
@[simp] theorem decisions_powerOn (P : Params) :
    decisions.lifetime.powerOn P = (Global.powerOn P, List.replicate P.nchip Slot.absent) := rfl
@[simp] theorem decisions_opened (old new : Global) (l : List Slot) :
    decisions.lifetime.opened old new l = (new, absentSlots l) := rfl
@[simp] theorem decisions_closed (draw : Nat) (g : Global) (l : List Slot) :
    decisions.lifetime.closed draw g l = (Global.afterShutdown draw, absentSlots l) := rfl
@[simp] theorem decisions_afterSetup : decisions.transitions.afterSetup = settle := rfl
@[simp] theorem decisions_alsoReset (n : Nat) (old sl : Slot) : decisions.transitions.alsoReset n old sl = sl := rfl
@[simp] theorem decisions_alsoRun (n : Nat) (old c : Chip) : decisions.transitions.alsoRun n old c = c := rfl
@[simp] theorem decisions_nullActive (new : BitVec 3) (g : Global) :
    decisions.transitions.nullActive new g = { g with defActive := new } := rfl
@[simp] theorem decisions_nullEngine (kind : EngineKind) (g : Global) :
    decisions.transitions.nullEngine kind g = { g with defEngine := kind } := rfl
@[simp] theorem decisions_alsoCleanup (old sl : Slot) : decisions.transitions.alsoCleanup old sl = sl := rfl
@[simp] theorem decisions_queryIsGetter : decisions.transitions.queryIsGetter = true := rfl
@[simp] theorem decisions_rebuilds (old new : VolModel) :
    decisions.transitions.rebuilds old new = decide (old ≠ new) := rfl
@[simp] theorem decisions_newMask : decisions.transitions.newMask = newMask := rfl
@[simp] theorem decisions_nullRate (n : Nat) (g : Global) : decisions.transitions.nullRate n g = none := rfl
@[simp] theorem decisions_status : decisions.checks.status = checkStatus := rfl
@[simp] theorem decisions_unknownEngine (dflt current : EngineKind) :
    decisions.ids.unknownEngine dflt current = dflt := rfl
@[simp] theorem decisions_unknownModel (current : VolModel) : decisions.ids.unknownModel current = current := rfl
@[simp] theorem decisions_clockNotice (w : Word) : decisions.reports.clock w = [.clock w] := rfl
@[simp] theorem decisions_engineNotice (w : Word) : decisions.reports.engine w = [.engine w] := rfl
@[simp] theorem decisions_modelNotice (w : Word) : decisions.reports.volModel w = [.volModel w] := rfl
@[simp] theorem decisions_overflowNotice (i : SlotNo) (n : OverflowCount) :
    decisions.reports.overflow i n = [.overflow i n] := rfl
@[simp] theorem decisions_runWord (n : Nat) : decisions.reports.runWord n = resultWord n := rfl
@[simp] theorem decisions_cleanupWord (n : OverflowCount) : decisions.reports.cleanupWord n = resultWord n := rfl
@[simp] theorem decisions_response : decisions.frames.response = responseFrame := rfl

/-- Engine setup of the spec, whatever the command: the negotiated instance with its engine bound or not, one draw. -/
@[simp] theorem Chip.afterSetup_design (cmd : CommandKind) (old new : Chip) (ok : Bool) :
    old.afterSetup design cmd new ok =
      { chip := { new with binding := reboundBinding (engineReset decisions) ok }, ending := setupEnding ok, draws := 1 } :=
  rfl

/-- CONFIGURE's engine setup in the spec's design. -/
@[simp] theorem Chip.rebind_design (P : Params) (c : Chip) (kind : EngineKind) (rate : Nat) (ok : Bool) :
    c.rebind P design kind rate ok =
      { chip :=
          { c with
            engineKind := kind
            clockHz := P.clockHz
            sampleRateHz := rate
            binding := reboundBinding (engineReset decisions) ok }
        ending := setupEnding ok
        draws := 1 } := rfl

/-- SET_ENGINE's engine setup in the spec's design. -/
@[simp] theorem Chip.switchEngine_design (c : Chip) (kind : EngineKind) (rate : Nat) (ok : Bool) :
    c.switchEngine design kind rate ok =
      { chip :=
          { c with
            engineKind := kind
            sampleRateHz := rate
            binding := reboundBinding (engineReset decisions) ok }
        ending := setupEnding ok
        draws := 1 } := rfl

/-- CREATE of the spec: a fresh instance with empty streams, one engine setup (41_lifecycle.md R172). -/
@[simp] theorem design_create (P : Params) (g : Global) (setup : EngineKind → Nat → Bool) (old : Slot) :
    design.create P g setup old =
      let c := Chip.blank P decisions g
      let ok := setup g.defEngine (P.rateAdjust g.defEngine g.defRate)
      { slot := ⟨.live { c with binding := reboundBinding (engineReset decisions) ok }, [], []⟩
        ending := setupEnding ok
        res0 := engineId g.defEngine
        res1 := resultWord P.clockHz
        res2 := resultWord (P.rateAdjust g.defEngine g.defRate)
        draws := 1 } := rfl

/-- A setter of the spec goes by the handle it is given (30_encoding.md R96). -/
@[simp] theorem State.setterTarget_design (s : State) (sel : ChipSel) : s.setterTarget design sel = sel := rfl

/-- RESET of the spec changes the instance alone, not its streams (41_lifecycle.md R173). -/
@[simp] theorem State.modifySlot_reset (s : State) (sel : ChipSel) (m : Nat) (c : Chip) :
    s.modifySlot sel (Slot.reset design m c) = s.setChip sel (c.reset design) := rfl

/-- CLEANUP of the spec makes the slot Destroyed and leaves its streams (41_lifecycle.md R175). -/
@[simp] theorem Slot.cleanup_design (sl : Slot) : sl.cleanup design = { sl with life := .destroyed } := rfl

/-- The verdict of the spec's checks, condition by condition in their order (60_exceptions.md R328). -/
theorem verdict_decisions (cmd : CommandKind) (f : Failing) :
    decisions.checks.verdict cmd f =
      if f.handle then some .eInval
      else if cmd.checksLifecycle && (f.init || f.live) then some .eState
      else if cmd = .run && f.alignment then some .eInval
      else if cmd = .run && f.buffer then some .eInval
      else if cmd = .run && f.binding then some .eState
      else none := by
  obtain ⟨h, i, l, v, a, b, g⟩ := f
  cases cmd <;> cases h <;> cases l <;> cases v <;> cases a <;> cases b <;> cases g <;> rfl

/-- A command that fails none of its conditions passes every design's checks. -/
theorem Checks.verdict_eq_none (C : Checks) (cmd : CommandKind) {f : Failing} (h : ∀ k, f.at k = false) :
    C.verdict cmd f = none := by
  simp [Checks.verdict, h]

/-- The spec's ApplyEvent on an engine with generators: a restart exactly if an event for register 13 is among those
applied. -/
theorem foldl_onEvent {kind : EngineKind} (hk : kind ≠ .debugDump) (l : List (QueueId × Event)) (e : EngineState) :
    l.foldl (fun e a => design.model.onEvent kind a.2.reg a.2.val e) e =
      if ∃ a ∈ l, a.2.reg = 13 then e.restartEnvelope else e := by
  induction l generalizing e with
  | nil => simp
  | cons a l ih =>
    rw [List.foldl_cons, ih]
    by_cases h : a.2.reg = 13 <;> by_cases h' : ∃ b ∈ l, b.2.reg = 13 <;>
      simp [generates_iff.mpr hk, onEvent, h, h', EngineState.restartEnvelope]

/-- ResolveEngine by id (45_mute_rate_clock.md R302). -/
theorem resolveEngine_eq (dflt current : EngineKind) (id : Word) :
    resolveEngine decisions dflt current id =
      if id = 0 then (dflt, [])
      else if id = 0xFFFFFFFF then (current, [])
      else if id = 1 then (.pulse, [])
      else if id = 2 then (.stepBandlimited, [])
      else if id = 3 then (.debugDump, [])
      else (dflt, [.engine id]) := by
  simp only [resolveEngine, Identifiers.engineRequest, Identifiers.request, decisions, identifiers, reports, queryId, engineId,
    List.find?_cons, List.find?_nil]
  by_cases h0 : id = 0 <;> by_cases hq : id = 0xFFFFFFFF <;> by_cases h1 : id = 1 <;> by_cases h2 : id = 2 <;>
    by_cases h3 : id = 3 <;> simp_all

/-- The volume model an id selects (42_volume_table.md R204). -/
theorem resolveModel_eq (current : VolModel) (id : Word) :
    resolveModel decisions current id =
      if id = 0 then (current, [])
      else if id = 0xFFFFFFFF then (current, [])
      else if id = 1 then (.nonlinear, [])
      else if id = 2 then (.linear, [])
      else (current, [.volModel id]) := by
  simp only [resolveModel, Identifiers.modelRequest, Identifiers.request, decisions, identifiers, reports, queryId, modelId,
    List.find?_cons, List.find?_nil]
  by_cases h0 : id = 0 <;> by_cases hq : id = 0xFFFFFFFF <;> by_cases h1 : id = 1 <;> by_cases h2 : id = 2 <;> simp_all

/-- A number that is a word's is that word. -/
@[simp] theorem resultWord_toNat (v : Word) : resultWord v.toNat = v := by
  simp [resultWord, v.isLt]

end Sys2Proof.Machine
end

