-- ==== Sys2Proof/Laws/State.lean ====
section
/-! SUPPORT. One lemma per field per update of the state and of an instance, each true by unfolding one record update,
so that no later proof unfolds one. -/

namespace Sys2Proof.Machine

open Sys2Proof.Config

/-! ### ends: only the response changes -/

@[simp] theorem State.ends_g (s : State) (D : Design) (cmd : CommandKind) (e : Ending) (r0 r1 r2 : Word) :
    (s.ends D cmd e r0 r1 r2).g = s.g := rfl
@[simp] theorem State.ends_chips (s : State) (D : Design) (cmd : CommandKind) (e : Ending) (r0 r1 r2 : Word) :
    (s.ends D cmd e r0 r1 r2).chips = s.chips := rfl
@[simp] theorem State.ends_diag (s : State) (D : Design) (cmd : CommandKind) (e : Ending) (r0 r1 r2 : Word) :
    (s.ends D cmd e r0 r1 r2).diag = s.diag := rfl
@[simp] theorem State.ends_cmds (s : State) (D : Design) (cmd : CommandKind) (e : Ending) (r0 r1 r2 : Word) :
    (s.ends D cmd e r0 r1 r2).cmds = s.cmds := rfl
@[simp] theorem State.ends_draws (s : State) (D : Design) (cmd : CommandKind) (e : Ending) (r0 r1 r2 : Word) :
    (s.ends D cmd e r0 r1 r2).draws = s.draws := rfl
@[simp] theorem State.ends_resp (s : State) (D : Design) (cmd : CommandKind) (e : Ending) (r0 r1 r2 : Word) :
    (s.ends D cmd e r0 r1 r2).resp = some (D.decisions.reports.answer cmd e r0 r1 r2) := rfl

/-! ### notices -/

@[simp] theorem State.notices_g (s : State) (ds : List Notice) : (s.notices ds).g = s.g := rfl
@[simp] theorem State.notices_chips (s : State) (ds : List Notice) : (s.notices ds).chips = s.chips := rfl
@[simp] theorem State.notices_diag (s : State) (ds : List Notice) : (s.notices ds).diag = s.diag ++ ds := rfl
@[simp] theorem State.notices_cmds (s : State) (ds : List Notice) : (s.notices ds).cmds = s.cmds := rfl
@[simp] theorem State.notices_resp (s : State) (ds : List Notice) : (s.notices ds).resp = s.resp := rfl
@[simp] theorem State.notices_draws (s : State) (ds : List Notice) : (s.notices ds).draws = s.draws := rfl

/-! ### draw -/

@[simp] theorem State.draw_g (s : State) (n : Nat) : (s.draw n).g = s.g := rfl
@[simp] theorem State.draw_chips (s : State) (n : Nat) : (s.draw n).chips = s.chips := rfl
@[simp] theorem State.draw_diag (s : State) (n : Nat) : (s.draw n).diag = s.diag := rfl
@[simp] theorem State.draw_cmds (s : State) (n : Nat) : (s.draw n).cmds = s.cmds := rfl
@[simp] theorem State.draw_resp (s : State) (n : Nat) : (s.draw n).resp = s.resp := rfl
@[simp] theorem State.draw_draws (s : State) (n : Nat) : (s.draw n).draws = s.draws + n := rfl

/-! ### withGlobal -/

@[simp] theorem State.withGlobal_g (s : State) (p : Global × List Slot) : (s.withGlobal p).g = p.1 := rfl
@[simp] theorem State.withGlobal_chips (s : State) (p : Global × List Slot) : (s.withGlobal p).chips = p.2 := rfl
@[simp] theorem State.withGlobal_diag (s : State) (p : Global × List Slot) : (s.withGlobal p).diag = s.diag := rfl
@[simp] theorem State.withGlobal_cmds (s : State) (p : Global × List Slot) : (s.withGlobal p).cmds = s.cmds := rfl
@[simp] theorem State.withGlobal_resp (s : State) (p : Global × List Slot) : (s.withGlobal p).resp = s.resp := rfl
@[simp] theorem State.withGlobal_draws (s : State) (p : Global × List Slot) : (s.withGlobal p).draws = s.draws := rfl

/-! ### putFrame -/

@[simp] theorem State.putFrame_g (s : State) (w : FrameBits) : (s.putFrame w).g = s.g := rfl
@[simp] theorem State.putFrame_chips (s : State) (w : FrameBits) : (s.putFrame w).chips = s.chips := rfl
@[simp] theorem State.putFrame_diag (s : State) (w : FrameBits) : (s.putFrame w).diag = s.diag := rfl
@[simp] theorem State.putFrame_cmds (s : State) (w : FrameBits) : (s.putFrame w).cmds = w :: s.cmds := rfl
@[simp] theorem State.putFrame_resp (s : State) (w : FrameBits) : (s.putFrame w).resp = s.resp := rfl
@[simp] theorem State.putFrame_draws (s : State) (w : FrameBits) : (s.putFrame w).draws = s.draws := rfl

/-! ### modifySlot: only the slots change -/

@[simp] theorem State.modifySlot_g (s : State) (sel : ChipSel) (f : Slot → Slot) : (s.modifySlot sel f).g = s.g := by
  cases sel <;> rfl
@[simp] theorem State.modifySlot_diag (s : State) (sel : ChipSel) (f : Slot → Slot) : (s.modifySlot sel f).diag = s.diag := by
  cases sel <;> rfl
@[simp] theorem State.modifySlot_cmds (s : State) (sel : ChipSel) (f : Slot → Slot) : (s.modifySlot sel f).cmds = s.cmds := by
  cases sel <;> rfl
@[simp] theorem State.modifySlot_resp (s : State) (sel : ChipSel) (f : Slot → Slot) : (s.modifySlot sel f).resp = s.resp := by
  cases sel <;> rfl
@[simp] theorem State.modifySlot_draws (s : State) (sel : ChipSel) (f : Slot → Slot) : (s.modifySlot sel f).draws = s.draws := by
  cases sel <;> rfl

/-! ### setChip: only the slots change -/

@[simp] theorem State.setChip_g (s : State) (sel : ChipSel) (c : Chip) : (s.setChip sel c).g = s.g := by
  cases sel <;> rfl
@[simp] theorem State.setChip_diag (s : State) (sel : ChipSel) (c : Chip) : (s.setChip sel c).diag = s.diag := by
  cases sel <;> rfl
@[simp] theorem State.setChip_cmds (s : State) (sel : ChipSel) (c : Chip) : (s.setChip sel c).cmds = s.cmds := by
  cases sel <;> rfl
@[simp] theorem State.setChip_resp (s : State) (sel : ChipSel) (c : Chip) : (s.setChip sel c).resp = s.resp := by
  cases sel <;> rfl
@[simp] theorem State.setChip_draws (s : State) (sel : ChipSel) (c : Chip) : (s.setChip sel c).draws = s.draws := by
  cases sel <;> rfl

/-! ### emit: only the slots change -/

@[simp] theorem State.emit_g (s : State) (sel : ChipSel) (pcm : List Sample) (dump : List (BitVec 64)) : (s.emit sel pcm dump).g = s.g := by
  cases sel <;> rfl
@[simp] theorem State.emit_diag (s : State) (sel : ChipSel) (pcm : List Sample) (dump : List (BitVec 64)) : (s.emit sel pcm dump).diag = s.diag := by
  cases sel <;> rfl
@[simp] theorem State.emit_cmds (s : State) (sel : ChipSel) (pcm : List Sample) (dump : List (BitVec 64)) : (s.emit sel pcm dump).cmds = s.cmds := by
  cases sel <;> rfl
@[simp] theorem State.emit_resp (s : State) (sel : ChipSel) (pcm : List Sample) (dump : List (BitVec 64)) : (s.emit sel pcm dump).resp = s.resp := by
  cases sel <;> rfl
@[simp] theorem State.emit_draws (s : State) (sel : ChipSel) (pcm : List Sample) (dump : List (BitVec 64)) : (s.emit sel pcm dump).draws = s.draws := by
  cases sel <;> rfl

/-! ### Slots -/

@[simp] theorem Slot.chip?_live (sl : Slot) (c : Chip) : (Slot.mk (.live c) sl.pcm sl.dump).chip? = some c := rfl
@[simp] theorem Slot.chip?_mk_live (c : Chip) (p : List Sample) (d : List (BitVec 64)) :
    (Slot.mk (.live c) p d).chip? = some c := rfl
@[simp] theorem Slot.chip?_mk_absent (p : List Sample) (d : List (BitVec 64)) :
    (Slot.mk .absent p d).chip? = none := rfl
@[simp] theorem Slot.chip?_mk_destroyed (p : List Sample) (d : List (BitVec 64)) :
    (Slot.mk .destroyed p d).chip? = none := rfl

/-- A slot holds a Live instance exactly when its existence state says so. -/
theorem Slot.chip?_eq_some {sl : Slot} {c : Chip} : sl.chip? = some c ↔ sl.life = .live c := by
  cases sl with
  | mk life pcm dump => cases life <;> simp [Slot.chip?]

@[simp] theorem length_absentSlots (l : List Slot) : (absentSlots l).length = l.length := List.length_map _

/-! ### Appends and drops: an append touches the queues and the slots in use, a drop the overflow counter -/

@[simp] theorem Chip.append_sh (e : Event) (c : Chip) (id : QueueId) : (c.append e id).sh = c.sh := rfl
@[simp] theorem Chip.append_x (e : Event) (c : Chip) (id : QueueId) : (c.append e id).x = c.x := rfl
@[simp] theorem Chip.append_queues (e : Event) (c : Chip) (id : QueueId) :
    (c.append e id).queues = c.queues.set id (c.queues.get id ++ [e]) := rfl
@[simp] theorem Chip.append_poolUsed (e : Event) (c : Chip) (id : QueueId) :
    (c.append e id).poolUsed = c.poolUsed + 1 := rfl
@[simp] theorem Chip.append_overflowCount (e : Event) (c : Chip) (id : QueueId) :
    (c.append e id).overflowCount = c.overflowCount := rfl
@[simp] theorem Chip.append_binding (e : Event) (c : Chip) (id : QueueId) : (c.append e id).binding = c.binding := rfl
@[simp] theorem Chip.countDrops_zero (D : Design) (c : Chip) : c.countDrops D 0 = c := rfl
@[simp] theorem Chip.countDrops_sh (D : Design) (c : Chip) (n : Nat) : (c.countDrops D n).sh = c.sh := rfl
@[simp] theorem Chip.countDrops_x (D : Design) (c : Chip) (n : Nat) : (c.countDrops D n).x = c.x := rfl
@[simp] theorem Chip.countDrops_queues (D : Design) (c : Chip) (n : Nat) : (c.countDrops D n).queues = c.queues := rfl
@[simp] theorem Chip.countDrops_poolUsed (D : Design) (c : Chip) (n : Nat) :
    (c.countDrops D n).poolUsed = c.poolUsed := rfl
@[simp] theorem Chip.countDrops_binding (D : Design) (c : Chip) (n : Nat) : (c.countDrops D n).binding = c.binding := rfl

/-! ### Queues -/

@[simp] theorem Queues.get_set_self (q : Queues) (id : QueueId) (l : List Event) : (q.set id l).get id = l := by
  cases id <;> rfl
theorem Queues.get_set_other (q : Queues) {id id' : QueueId} (h : id' ≠ id) (l : List Event) :
    (q.set id l).get id' = q.get id' := by
  cases id <;> cases id' <;> first | rfl | exact absurd rfl h
@[simp] theorem Queues.get_mapEvents (q : Queues) (f : Event → Event) (id : QueueId) :
    (q.mapEvents f).get id = (q.get id).map f := by
  cases id <;> rfl
@[simp] theorem Queues.get_empty (id : QueueId) : Queues.empty.get id = [] := by
  cases id <;> rfl
@[simp] theorem Queues.count_empty : Queues.empty.count = 0 := rfl
@[simp] theorem Queues.count_mapEvents (q : Queues) (f : Event → Event) : (q.mapEvents f).count = q.count := by
  simp [Queues.count, Queues.mapEvents]

/-- Two records of queues are equal when their queues are. -/
theorem Queues.ext_get {q q' : Queues} (h : ∀ id, q.get id = q'.get id) : q = q' := by
  cases q
  cases q'
  have ht := h .tone
  have hn := h .noise
  have he := h .env
  simp only [Queues.get] at ht hn he
  subst ht hn he
  rfl

/-! ### Binding -/

@[simp] theorem engine?_reboundBinding (fresh : EngineState) (ok : Bool) :
    (reboundBinding fresh ok).engine? = if ok then some fresh else none := by
  cases ok <;> rfl
@[simp] theorem Binding.engine?_afterReset (D : Design) (b : Binding) :
    (b.afterReset D).engine? = b.engine?.map fun _ => D.model.engineReset := by
  cases b <;> rfl

end Sys2Proof.Machine
end

