-- ==== Sys2Proof/Laws/Sequencer.lean ====
section
/-! SUPPORT. Laws of the event sequencer: what NextDue names, ApplyDue as a recursion without fuel and its induction
principle, and the lengths of what the walk and the engines yield. -/

namespace Sys2Proof.Machine

open Sys2Proof.Config

/-! ## NextDue -/

/-- A due head is the head of its queue and not above the limit. -/
theorem dueStamp_eq_some {l : List Event} {lim ts : Int} :
    dueStamp l lim = some ts ↔ ∃ e rest, l = e :: rest ∧ e.ts = ts ∧ ts ≤ lim := by
  cases l with
  | nil => simp [dueStamp]
  | cons e rest =>
    simp only [dueStamp, List.cons.injEq]
    split
    · next h =>
      constructor
      · intro h'
        cases h'
        exact ⟨e, rest, ⟨rfl, rfl⟩, rfl, h⟩
      · rintro ⟨e', rest', ⟨rfl, rfl⟩, rfl, _⟩
        rfl
    · next h =>
      constructor
      · intro h'
        cases h'
      · rintro ⟨e', rest', ⟨rfl, rfl⟩, rfl, h'⟩
        exact absurd h' h

/-- No head is due exactly when the queue is empty or its head is above the limit. -/
theorem dueStamp_eq_none {l : List Event} {lim : Int} :
    dueStamp l lim = none ↔ ∀ e rest, l = e :: rest → lim < e.ts := by
  cases l with
  | nil => simp [dueStamp]
  | cons e rest =>
    simp only [dueStamp, List.cons.injEq]
    split
    · next h =>
      constructor
      · intro h'
        cases h'
      · intro h'
        exact absurd (h' e rest ⟨rfl, rfl⟩) (by omega)
    · next h =>
      constructor
      · rintro _ e' rest' ⟨rfl, rfl⟩
        omega
      · intro _
        rfl

/-- The earlier of two due heads is one of them. -/
theorem earlierDue_eq_some {rank : QueueId → Nat} {p q : Option (Int × QueueId)} {x : Int × QueueId} (h : earlierDue rank p q = some x) :
    p = some x ∨ q = some x := by
  cases p <;> cases q <;> simp only [earlierDue] at h <;> grind

/-- There is no earlier one exactly when neither is due. -/
theorem earlierDue_eq_none {rank : QueueId → Nat} {p q : Option (Int × QueueId)} : earlierDue rank p q = none ↔ p = none ∧ q = none := by
  cases p <;> cases q <;> simp only [earlierDue] <;> grind

/-- NextDue names no queue exactly when no head is due. -/
theorem nextDue_eq_none {q : Queues} {rank : QueueId → Nat} {lim : Int} :
    q.nextDue rank lim = none ↔ ∀ id, dueStamp (q.get id) lim = none := by
  simp only [Queues.nextDue, Option.map_eq_none_iff, earlierDue_eq_none]
  constructor
  · rintro ⟨⟨h1, h2⟩, h3⟩ id
    cases id <;> assumption
  · intro h
    exact ⟨⟨h .tone, h .noise⟩, h .env⟩

/-- The queue NextDue names has a due head. -/
theorem nextDue_eq_some {q : Queues} {rank : QueueId → Nat} {lim : Int} {id : QueueId} (h : q.nextDue rank lim = some id) :
    ∃ e rest, q.get id = e :: rest ∧ e.ts ≤ lim := by
  simp only [Queues.nextDue, Option.map_eq_some_iff] at h
  obtain ⟨⟨ts, id'⟩, h, rfl⟩ := h
  have key : ∀ id'' : QueueId, (dueStamp (q.get id'') lim).map (fun t => (t, id'')) = some (ts, id') →
      ∃ e rest, q.get id' = e :: rest ∧ e.ts ≤ lim := by
    intro id'' h'
    simp only [Option.map_eq_some_iff, Prod.mk.injEq] at h'
    obtain ⟨t, h', rfl, rfl⟩ := h'
    obtain ⟨e, rest, h1, h2, h3⟩ := dueStamp_eq_some.mp h'
    exact ⟨e, rest, h1, h2 ▸ h3⟩
  rcases earlierDue_eq_some h with h | h
  · rcases earlierDue_eq_some h with h | h
    · exact key _ h
    · exact key _ h
  · exact key _ h

/-! ## ApplyDue -/

/-- Applying an event touches no queue. -/
@[simp] theorem applyEvent_queues (D : Design) (kind : EngineKind) (id : QueueId) (e : Event) (w : Synth) :
    (applyEvent D kind id e w).queues = w.queues := rfl

/-- Applying an event writes its register, whatever the engine. -/
@[simp] theorem applyEvent_x (D : Design) (kind : EngineKind) (id : QueueId) (e : Event) (w : Synth) :
    (applyEvent D kind id e w).x = w.x.set e.reg e.val := rfl

/-- Taking the head off a queue lowers the count by one. -/
theorem count_set_tail {q : Queues} {id : QueueId} {e : Event} {rest : List Event} (h : q.get id = e :: rest) :
    q.count = (q.set id rest).count + 1 := by
  cases id <;> simp only [Queues.get] at h <;> simp [Queues.count, Queues.set, h] <;> omega

/-- With no head due ApplyDue does nothing. -/
theorem applyDue_none {D : Design} {kind : EngineKind} {lim : Int} {w : Synth} (h : w.queues.nextDue D.decisions.sequence.rank lim = none) :
    applyDue D kind lim w = w := by
  unfold applyDue
  cases hc : w.queues.count with
  | zero => rfl
  | succ n => simp [applyDueFuel, h]

/-- One turn of ApplyDue. -/
theorem applyDue_some {D : Design} {kind : EngineKind} {lim : Int} {w : Synth} {id : QueueId} {e : Event} {rest : List Event}
    (h : w.queues.nextDue D.decisions.sequence.rank lim = some id) (hq : w.queues.get id = e :: rest) :
    applyDue D kind lim w =
      applyDue D kind lim (applyEvent D kind id e { w with queues := w.queues.set id rest }) := by
  simp only [applyDue, applyEvent_queues]
  rw [count_set_tail hq]
  simp [applyDueFuel, h, hq]

/-- What holds when no head is due, and is carried backwards over one turn, holds of ApplyDue. -/
theorem applyDue_induction {D : Design} {kind : EngineKind} {lim : Int} (motive : Synth → Synth → Prop)
    (stop : ∀ w, w.queues.nextDue D.decisions.sequence.rank lim = none → motive w w)
    (turn : ∀ w id e rest, w.queues.nextDue D.decisions.sequence.rank lim = some id → w.queues.get id = e :: rest → e.ts ≤ lim →
      ∀ w', motive (applyEvent D kind id e { w with queues := w.queues.set id rest }) w' → motive w w')
    (w : Synth) : motive w (applyDue D kind lim w) := by
  suffices h : ∀ n w, w.queues.count = n → motive w (applyDue D kind lim w) from h _ w rfl
  intro n
  induction n with
  | zero =>
    intro w hw
    have hnone : w.queues.nextDue D.decisions.sequence.rank lim = none := by
      cases hd : w.queues.nextDue D.decisions.sequence.rank lim with
      | none => rfl
      | some id =>
        obtain ⟨e, rest, hq, _⟩ := nextDue_eq_some hd
        have := count_set_tail hq
        omega
    rw [applyDue_none hnone]
    exact stop w hnone
  | succ n ih =>
    intro w hw
    cases hd : w.queues.nextDue D.decisions.sequence.rank lim with
    | none =>
      rw [applyDue_none hd]
      exact stop w hd
    | some id =>
      obtain ⟨e, rest, hq, hts⟩ := nextDue_eq_some hd
      rw [applyDue_some hd hq]
      refine turn w id e rest hd hq hts _ (ih _ ?_)
      have := count_set_tail hq
      simp only [applyEvent_queues]
      omega

/-! ## What ApplyDue and the walk apply -/

/-- An event taken off a queue, with the queue's id. -/
abbrev Taken := QueueId × Event

/-- `a` is applied no later than `b`: by stamp, then by the rank of the queue (43_synthesis_engine.md R226). -/
def Taken.before (rank : QueueId → Nat) (a b : Taken) : Prop :=
  a.2.ts < b.2.ts ∨ a.2.ts = b.2.ts ∧ rank a.1 ≤ rank b.1

/-- The events of one queue among those taken, in order. -/
def fromQueue (l : List Taken) (id : QueueId) : List Event := (l.filter fun a => decide (a.1 = id)).map Prod.snd

@[simp] theorem fromQueue_nil (id : QueueId) : fromQueue [] id = [] := rfl

theorem fromQueue_append (l l' : List Taken) (id : QueueId) :
    fromQueue (l ++ l') id = fromQueue l id ++ fromQueue l' id := by simp [fromQueue]

theorem mem_fromQueue {l : List Taken} {id : QueueId} {e : Event} : e ∈ fromQueue l id ↔ (id, e) ∈ l := by
  simp only [fromQueue, List.mem_map, List.mem_filter, decide_eq_true_eq, Prod.exists]
  grind

/-- From `w` to `w'` the events of `l` were applied, in this order, none above `lim`: off the fronts of the queues, and
each no later than every event still queued, where the queues are in stamp order. -/
structure Applied (D : Design) (kind : EngineKind) (lim : Int) (l : List Taken) (w w' : Synth) : Prop where
  due : ∀ a ∈ l, a.2.ts ≤ lim
  queues : ∀ id, w.queues.get id = fromQueue l id ++ w'.queues.get id
  x : w'.x = l.foldl (fun x a => x.set a.2.reg a.2.val) w.x
  dump : w'.dump = w.dump ++ if kind = .debugDump then l.flatMap fun a => D.decisions.frames.record D.decisions.widths.stamp a.1 a.2 else []
  order : w.queues.Ordered →
    l.Pairwise (Taken.before D.decisions.sequence.rank) ∧ ∀ a ∈ l, ∀ id, ∀ e ∈ w'.queues.get id, Taken.before D.decisions.sequence.rank a (id, e)

/-- In stamp order, queue by queue. -/
theorem Queues.ordered_iff {q : Queues} : q.Ordered ↔ ∀ id, stampsOrdered (q.get id) := by
  constructor
  · rintro ⟨h1, h2, h3⟩ id
    cases id <;> assumption
  · exact fun h => ⟨h .tone, h .noise, h .env⟩

/-- What is left of ordered queues is ordered. -/
theorem Applied.ordered {D : Design} {kind : EngineKind} {lim : Int} {l : List Taken} {w w' : Synth} (h : Applied D kind lim l w w')
    (ho : w.queues.Ordered) : w'.queues.Ordered := by
  rw [Queues.ordered_iff] at ho ⊢
  intro id
  have := ho id
  rw [h.queues id] at this
  exact (List.pairwise_append.mp this).2.1

theorem Applied.nil (D : Design) (kind : EngineKind) (lim : Int) (w : Synth) : Applied D kind lim [] w w where
  due := by simp
  queues := fun _ => rfl
  x := rfl
  dump := by simp
  order := fun _ => ⟨.nil, by simp⟩

theorem Applied.trans {D : Design} {kind : EngineKind} {lim : Int} {l l' : List Taken} {a b c : Synth} (h : Applied D kind lim l a b)
    (h' : Applied D kind lim l' b c) : Applied D kind lim (l ++ l') a c where
  due := fun t ht => (List.mem_append.mp ht).elim (h.due t) (h'.due t)
  queues := fun id => by rw [h.queues id, h'.queues id, fromQueue_append, List.append_assoc]
  x := by rw [h'.x, h.x, List.foldl_append]
  dump := by
    rw [h'.dump, h.dump]
    split <;> simp
  order := fun ho => by
    have hb := h.order ho
    have hc := h'.order (h.ordered ho)
    refine ⟨List.pairwise_append.mpr ⟨hb.1, hc.1, fun t ht u hu => ?_⟩, fun t ht id e he => ?_⟩
    · refine hb.2 t ht u.1 u.2 ?_
      rw [h'.queues]
      exact List.mem_append_left _ (mem_fromQueue.mpr hu)
    · rcases List.mem_append.mp ht with ht | ht
      · refine hb.2 t ht id e ?_
        rw [h'.queues]
        exact List.mem_append_right _ he
      · exact hc.2 t ht id e he

theorem Applied.mono {D : Design} {kind : EngineKind} {lim lim' : Int} {l : List Taken} {a b : Synth} (h : Applied D kind lim l a b)
    (hl : lim ≤ lim') : Applied D kind lim' l a b :=
  { h with due := fun t ht => (h.due t ht).trans hl }

/-- The engine state has no part in it. -/
theorem Applied.congr {D : Design} {kind : EngineKind} {lim : Int} {l : List Taken} {a b c : Synth} (h : Applied D kind lim l a b)
    (hq : c.queues = b.queues) (hx : c.x = b.x) (hd : c.dump = b.dump) : Applied D kind lim l a c where
  due := h.due
  queues := by rw [hq]; exact h.queues
  x := by rw [hx]; exact h.x
  dump := by rw [hd]; exact h.dump
  order := by rw [hq]; exact h.order

/-- A due head is no later than another: by stamp, then by the rank of the queue. -/
def dueBefore (rank : QueueId → Nat) (a b : Int × QueueId) : Prop := a.1 < b.1 ∨ a.1 = b.1 ∧ rank a.2 ≤ rank b.2

theorem dueBefore.trans {rank : QueueId → Nat} {a b c : Int × QueueId} (h : dueBefore rank a b)
    (h' : dueBefore rank b c) : dueBefore rank a c := by
  simp only [dueBefore] at *
  omega

/-- The earlier of two due heads comes no later than either. -/
theorem earlierDue_before {rank : QueueId → Nat} {p q : Option (Int × QueueId)} {x : Int × QueueId}
    (h : earlierDue rank p q = some x) :
    (∀ a, p = some a → dueBefore rank x a) ∧ ∀ b, q = some b → dueBefore rank x b := by
  cases p <;> cases q <;> simp only [earlierDue, dueBefore] at h ⊢ <;> grind

/-- The earliest of the due heads of the three queues. -/
theorem earliest_before {rank : QueueId → Nat} {p q r : Option (Int × QueueId)} {x : Int × QueueId}
    (h : earlierDue rank (earlierDue rank p q) r = some x) :
    (∀ a, p = some a → dueBefore rank x a) ∧ (∀ a, q = some a → dueBefore rank x a) ∧
      ∀ a, r = some a → dueBefore rank x a := by
  have h2 := earlierDue_before h
  cases hy : earlierDue rank p q with
  | none =>
    obtain ⟨rfl, rfl⟩ := earlierDue_eq_none.mp hy
    exact ⟨by simp, by simp, h2.2⟩
  | some y =>
    have h1 := earlierDue_before hy
    have hxy := h2.1 y hy
    exact ⟨fun a ha => hxy.trans (h1.1 a ha), fun a ha => hxy.trans (h1.2 a ha), h2.2⟩

/-- The head NextDue names comes no later than any other head. -/
theorem nextDue_before {q : Queues} {rank : QueueId → Nat} {lim : Int} {id : QueueId} (h : q.nextDue rank lim = some id) {e : Event}
    {rest : List Event} (hq : q.get id = e :: rest) (id' : QueueId) {e' : Event} {rest' : List Event}
    (hq' : q.get id' = e' :: rest') : Taken.before rank (id, e) (id', e') := by
  obtain ⟨e₀, rest₀, hq₀, hts⟩ := nextDue_eq_some h
  obtain ⟨rfl, rfl⟩ : e = e₀ ∧ rest = rest₀ := by simpa using hq.symm.trans hq₀
  rcases Int.lt_or_le lim e'.ts with hlim | hlim
  · exact .inl (by simp only; omega)
  have hd : ∀ id e rest, q.get id = e :: rest → e.ts ≤ lim →
      (dueStamp (q.get id) lim).map (fun ts => (ts, id)) = some (e.ts, id) := by
    intro id e rest hq hts
    simp [hq, dueStamp, hts]
  have hid : ∀ id, ∀ a : Int × QueueId, (dueStamp (q.get id) lim).map (fun ts => (ts, id)) = some a → a.2 = id := by
    intro id a ha
    simp only [Option.map_eq_some_iff] at ha
    obtain ⟨_, _, rfl⟩ := ha
    rfl
  simp only [Queues.nextDue, Option.map_eq_some_iff] at h
  obtain ⟨x, h, rfl⟩ := h
  have hall := earliest_before h
  have hx : x = (e.ts, x.2) := by
    have key : ∀ id, (dueStamp (q.get id) lim).map (fun ts => (ts, id)) = some x → x = (e.ts, x.2) := by
      intro id hx
      obtain rfl := hid id x hx
      exact Option.some.inj (hx.symm.trans (hd _ _ _ hq hts))
    rcases earlierDue_eq_some h with h | h
    · rcases earlierDue_eq_some h with h | h <;> exact key _ h
    · exact key _ h
  have hb : dueBefore rank x (e'.ts, id') := by
    have hd' := hd _ _ _ hq' hlim
    cases id' with
    | tone => exact hall.1 _ hd'
    | noise => exact hall.2.1 _ hd'
    | env => exact hall.2.2 _ hd'
  rw [hx] at hb
  exact hb

/-- Of queues in stamp order the head NextDue names comes no later than any queued event. -/
theorem nextDue_before_all {q : Queues} {rank : QueueId → Nat} {lim : Int} {id : QueueId} (ho : q.Ordered) (h : q.nextDue rank lim = some id)
    {e : Event} {rest : List Event} (hq : q.get id = e :: rest) (id' : QueueId) {e' : Event} (he : e' ∈ q.get id') :
    Taken.before rank (id, e) (id', e') := by
  cases hq' : q.get id' with
  | nil => simp [hq'] at he
  | cons f rest' =>
    have hb := nextDue_before h hq id' hq'
    have hs := Queues.ordered_iff.mp ho id'
    rw [hq'] at he hs
    rcases List.mem_cons.mp he with rfl | he
    · exact hb
    · have : f.ts ≤ e'.ts := (List.pairwise_cons.mp hs).1 e' he
      simp only [Taken.before] at hb ⊢
      grind

/-- One turn of ApplyDue. -/
theorem Applied.turn (D : Design) {kind : EngineKind} {lim : Int} {w : Synth} {id : QueueId} {e : Event}
    {rest : List Event} (h : w.queues.nextDue D.decisions.sequence.rank lim = some id) (hq : w.queues.get id = e :: rest) (hts : e.ts ≤ lim) :
    Applied D kind lim [(id, e)] w (applyEvent D kind id e { w with queues := w.queues.set id rest }) where
  due := by simpa using hts
  queues := fun id' => by
    by_cases hid : id' = id
    · subst hid
      simp [hq, fromQueue]
    · simp [Queues.get_set_other _ hid, fromQueue, Ne.symm hid]
  x := by simp
  dump := by cases kind <;> simp [applyEvent]
  order := fun ho => by
    refine ⟨List.pairwise_singleton _ _, fun a ha id' e' he => ?_⟩
    rw [List.mem_singleton] at ha
    subst ha
    refine nextDue_before_all ho h hq id' ?_
    by_cases hid : id' = id
    · subst hid
      rw [hq]
      exact List.mem_cons_of_mem _ (by simpa using he)
    · simpa [Queues.get_set_other _ hid] using he

/-- The engine state after the given events, in order (43_synthesis_engine.md R224). -/
def reactTo (D : Design) (kind : EngineKind) (l : List Taken) (e : EngineState) : EngineState :=
  l.foldl (fun e a => D.model.onEvent kind a.2.reg a.2.val e) e

theorem reactTo_append (D : Design) (kind : EngineKind) (l l' : List Taken) (e : EngineState) :
    reactTo D kind (l ++ l') e = reactTo D kind l' (reactTo D kind l e) := by
  simp [reactTo]

theorem applyEvent_eng (D : Design) (kind : EngineKind) (id : QueueId) (e : Event) (w : Synth) :
    (applyEvent D kind id e w).eng = reactTo D kind [(id, e)] w.eng := rfl

/-- Everything ApplyDue can do: it applies the due events and leaves none. -/
theorem applyDue_applied (D : Design) (kind : EngineKind) (lim : Int) (w : Synth) :
    ∃ l, Applied D kind lim l w (applyDue D kind lim w) ∧ (applyDue D kind lim w).eng = reactTo D kind l w.eng ∧
      (applyDue D kind lim w).queues.nextDue D.decisions.sequence.rank lim = none := by
  apply applyDue_induction (motive := fun w w' => ∃ l, Applied D kind lim l w w' ∧
    w'.eng = reactTo D kind l w.eng ∧ w'.queues.nextDue D.decisions.sequence.rank lim = none)
  · exact fun w h => ⟨[], .nil D kind lim w, by simp [reactTo], h⟩
  · rintro w id e rest hd hq hts w' ⟨l, h, he, hn⟩
    refine ⟨(id, e) :: l, (Applied.turn D hd hq hts).trans h, ?_, hn⟩
    rw [he, applyEvent_eng]
    exact (reactTo_append D kind [(id, e)] l w.eng).symm

/-- After ApplyDue no head is due. -/
theorem applyDue_nextDue (D : Design) (kind : EngineKind) (lim : Int) (w : Synth) :
    (applyDue D kind lim w).queues.nextDue D.decisions.sequence.rank lim = none := by
  obtain ⟨_, _, _, h⟩ := applyDue_applied D kind lim w
  exact h

/-- A tick of the generators touches neither queues nor registers. -/
@[simp] theorem tick_queues (D : Design) (env : WalkEnv) (w : Synth) : (tick D env w).queues = w.queues := rfl

@[simp] theorem tick_x (D : Design) (env : WalkEnv) (w : Synth) : (tick D env w).x = w.x := rfl

@[simp] theorem tick_dump (D : Design) (env : WalkEnv) (w : Synth) : (tick D env w).dump = w.dump := rfl

/-- What the ticks of a walk apply. -/
theorem walkTicks_applied (D : Design) (env : WalkEnv) (n k : Nat) (w : Synth) (lim : Int)
    (hl : ∀ j < k + n, D.decisions.sequence.due j ≤ lim) :
    ∃ l, Applied D env.kind lim l w (walkTicks D env k n w).2 := by
  induction n generalizing k w with
  | zero => exact ⟨[], .nil _ _ _ w⟩
  | succ n ih =>
    simp only [walkTicks]
    obtain ⟨l, h, _⟩ := applyDue_applied D env.kind (D.decisions.sequence.due k) w
    obtain ⟨l', h'⟩ := ih (k + 1) (tick D env (applyDue D env.kind (D.decisions.sequence.due k) w))
      fun j hj => hl j (by omega)
    have ht := (h.mono (hl k (by omega))).congr (tick_queues D env _) (tick_x D env _) (tick_dump D env _)
    exact ⟨l ++ l', ht.trans h'⟩

/-- What a walk applies. -/
theorem walk_applied (D : Design) (env : WalkEnv) (elapsed : Nat) (w : Synth) :
    ∃ l, Applied D env.kind (D.decisions.sequence.last elapsed) l w (walk D env elapsed w).2 := by
  simp only [walk]
  obtain ⟨l, hl⟩ := walkTicks_applied D env (elapsed / 8) 0 w (D.decisions.sequence.last elapsed)
    fun j hj => D.decisions.sequence.due_le_last j elapsed (by omega)
  obtain ⟨l', hl', _⟩ := applyDue_applied D env.kind (D.decisions.sequence.last elapsed)
    (walkTicks D env 0 (elapsed / 8) w).2
  exact ⟨l ++ l', hl.trans hl'⟩

/-- After a walk no head is due at its end. -/
theorem walk_nextDue (D : Design) (env : WalkEnv) (elapsed : Nat) (w : Synth) :
    (walk D env elapsed w).2.queues.nextDue D.decisions.sequence.rank (D.decisions.sequence.last elapsed) = none :=
  applyDue_nextDue _ _ _ _

/-! ## What that makes of queues and registers -/

/-- A register after a write of one register. -/
theorem regFile_get_set (x : RegFile) (r i : Reg) (v : Byte) : (x.set r v).get i = if r = i then v else x.get i := by
  simp [Vector.get_eq_getElem, Vector.getElem_set, Fin.ext_iff]

/-- A register after the given events: the last of them for it, or as it was. -/
theorem get_foldl_set (l : List Taken) (x : RegFile) (i : Reg) :
    (∃ a p r, l = p ++ a :: r ∧ a.2.reg = i ∧ (∀ b ∈ r, b.2.reg ≠ i) ∧
      (l.foldl (fun x a => x.set a.2.reg a.2.val) x).get i = a.2.val) ∨
    (∀ b ∈ l, b.2.reg ≠ i) ∧ (l.foldl (fun x a => x.set a.2.reg a.2.val) x).get i = x.get i := by
  induction l generalizing x with
  | nil => exact .inr ⟨by simp, rfl⟩
  | cons b l ih =>
    rcases ih (x.set b.2.reg b.2.val) with ⟨a, p, r, rfl, ha, hr, hx⟩ | ⟨hn, hx⟩
    · exact .inl ⟨a, b :: p, r, rfl, ha, hr, hx⟩
    · simp only [List.foldl_cons, hx, regFile_get_set]
      by_cases hb : b.2.reg = i
      · exact .inl ⟨b, [], l, rfl, hb, hn, by simp [hb]⟩
      · refine .inr ⟨?_, by simp [hb]⟩
        simpa [hb] using hn

/-- With no head due, every event of ordered queues is above the limit. -/
theorem lt_of_nextDue_none {q : Queues} {rank : QueueId → Nat} {lim : Int} (ho : q.Ordered) (h : q.nextDue rank lim = none) (id : QueueId)
    {e : Event} (he : e ∈ q.get id) : lim < e.ts := by
  have hd := dueStamp_eq_none.mp (nextDue_eq_none.mp h id)
  have hs := Queues.ordered_iff.mp ho id
  cases hq : q.get id with
  | nil => simp [hq] at he
  | cons f rest =>
    rw [hq] at he hs
    have hf := hd f rest hq
    rcases List.mem_cons.mp he with rfl | he
    · exact hf
    · exact lt_of_lt_of_le hf ((List.pairwise_cons.mp hs).1 e he)

/-- All due events of ordered queues applied: each queue holds exactly those above the limit. -/
theorem Applied.rest {D : Design} {kind : EngineKind} {lim : Int} {l : List Taken} {w w' : Synth} (h : Applied D kind lim l w w')
    (ho : w.queues.Ordered) (hn : w'.queues.nextDue D.decisions.sequence.rank lim = none) (id : QueueId) :
    w'.queues.get id = (w.queues.get id).filter fun ev => decide (lim < ev.ts) := by
  rw [h.queues id, List.filter_append, List.filter_eq_nil_iff.mpr, List.nil_append, List.filter_eq_self.mpr]
  · exact fun e he => by simpa using lt_of_nextDue_none (h.ordered ho) hn id he
  · intro e he
    have := h.due _ (mem_fromQueue.mp he)
    simpa using this

/-- All due events of ordered queues applied: each register holds the last due write. -/
theorem Applied.commits {D : Design} {kind : EngineKind} {lim : Int} {l : List Taken} {w w' : Synth} (h : Applied D kind lim l w w')
    (ho : w.queues.Ordered) (hn : w'.queues.nextDue D.decisions.sequence.rank lim = none) (i : Reg) :
    w.queues.Commits D.decisions.sequence.rank lim i (w.x.get i) (w'.x.get i) := by
  have hrest := fun id {e : Event} (he : e ∈ w'.queues.get id) => lt_of_nextDue_none (h.ordered ho) hn id he
  rw [h.x]
  rcases get_foldl_set l w.x i with ⟨a, p, r, rfl, ha, hr, hx⟩ | ⟨hl, hx⟩
  · left
    have hpw := (h.order ho).1
    refine ⟨a.1, (fromQueue p a.1).length, a.2, ?_, ha, h.due a (by simp), hx.symm, ?_⟩
    · rw [h.queues a.1, fromQueue_append]
      simp [fromQueue]
    · intro id' k' ev' hk hreg hts
      rw [h.queues id'] at hk
      have hin : (fromQueue (p ++ a :: r) id')[k']? = some ev' := by
        rcases Nat.lt_or_ge k' (fromQueue (p ++ a :: r) id').length with hlt | hge
        · rwa [List.getElem?_append_left hlt] at hk
        · rw [List.getElem?_append_right hge] at hk
          have := hrest id' (List.mem_of_getElem? hk)
          omega
      rw [fromQueue_append] at hin
      rcases Nat.lt_or_ge k' (fromQueue p id').length with hlt | hge
      · rw [List.getElem?_append_left hlt] at hin
        have hm := mem_fromQueue.mp (List.mem_of_getElem? hin)
        rcases (List.pairwise_append.mp hpw).2.2 _ hm a (by simp) with hb | ⟨hb, hc⟩
        · exact .inl hb
        · refine .inr ⟨hb, ?_⟩
          by_cases hid : id' = a.1
          · subst hid
            exact .inr ⟨rfl, by omega⟩
          · exact .inl (lt_of_le_of_ne hc fun he => hid (D.decisions.sequence.rank_inj _ _ he))
      · rw [List.getElem?_append_right hge] at hin
        by_cases hid : id' = a.1
        · subst hid
          have : fromQueue (a :: r) a.1 = a.2 :: fromQueue r a.1 := by simp [fromQueue]
          rw [this] at hin
          cases hj : k' - (fromQueue p a.1).length with
          | zero =>
            rw [hj] at hin
            simp only [List.getElem?_cons_zero, Option.some.injEq] at hin
            subst hin
            exact .inr ⟨rfl, .inr ⟨rfl, by omega⟩⟩
          | succ j =>
            rw [hj] at hin
            exact absurd hreg (hr _ (mem_fromQueue.mp (List.mem_of_getElem? hin)))
        · have : fromQueue (a :: r) id' = fromQueue r id' := by simp [fromQueue, Ne.symm hid]
          rw [this] at hin
          exact absurd hreg (hr _ (mem_fromQueue.mp (List.mem_of_getElem? hin)))
  · right
    refine ⟨fun id ev hev hreg => ?_, hx⟩
    rw [h.queues id] at hev
    rcases List.mem_append.mp hev with hev | hev
    · exact absurd hreg (hl _ (mem_fromQueue.mp hev))
    · exact hrest id hev

/-! ## Lengths -/

/-- One entry per tick. -/
@[simp] theorem walkTicks_length (D : Design) (env : WalkEnv) (k n : Nat) (w : Synth) : (walkTicks D env k n w).1.length = n := by
  induction n generalizing k w with
  | zero => rfl
  | succ n ih => simp [walkTicks, ih]

/-- Walk yields N/8 ticks. -/
@[simp] theorem walk_length (D : Design) (env : WalkEnv) (elapsed : Nat) (w : Synth) :
    (walk D env elapsed w).1.length = elapsed / 8 := by
  simp [walk]

/-- Every engine yields the asked number of samples. -/
@[simp] theorem engineOut_length (P : Params) (D : Design) (kind : EngineKind) (filter : Nat) (s : List Sample) (k n : Nat) :
    (engineOut P D kind filter s k n).1.length = n := by
  cases kind
  · exact D.pulseOut_length filter s k n
  · exact P.blepOut_length filter s k n
  · exact D.debugOut_length n

end Sys2Proof.Machine
end

