-- ==== Sys2Proof/Laws/Slots.lean ====
section
/-! SUPPORT. Laws of the instance slots: a read after a write to the same slot gives what was written, a write leaves
every other slot alone, and the number of slots never changes. -/

namespace Sys2Proof.Machine

open Sys2Proof.Config

/-- Reading the slot that was changed. -/
@[simp] theorem State.slot?_modifySlot_self (s : State) (sel : ChipSel) (f : Slot → Slot) :
    (s.modifySlot sel f).slot? sel = (s.slot? sel).map f := by
  cases sel <;> simp [State.slot?, State.modifySlot]

/-- Reading another slot. -/
theorem State.slot?_modifySlot_other (s : State) {sel sel' : ChipSel} (h : sel' ≠ sel) (f : Slot → Slot) :
    (s.modifySlot sel f).slot? sel' = s.slot? sel' := by
  cases sel with
  | null => rfl
  | slot n =>
    cases sel' with
    | null => rfl
    | slot m =>
      have hne : n.val ≠ m.val := fun e => h (by rw [Fin.ext e])
      simp [State.slot?, State.modifySlot, hne]

/-- The number of slots is fixed. -/
@[simp] theorem State.length_modifySlot (s : State) (sel : ChipSel) (f : Slot → Slot) :
    (s.modifySlot sel f).chips.length = s.chips.length := by
  cases sel <;> simp [State.modifySlot]

@[simp] theorem State.length_setChip (s : State) (sel : ChipSel) (c : Chip) :
    (s.setChip sel c).chips.length = s.chips.length := by simp [State.setChip]

@[simp] theorem State.length_emit (s : State) (sel : ChipSel) (p : List Sample) (d : List (BitVec 64)) :
    (s.emit sel p d).chips.length = s.chips.length := by simp [State.emit]

/-- A Live instance stands in a slot that exists. -/
theorem State.chip?_eq_some {s : State} {sel : ChipSel} {c : Chip} :
    s.chip? sel = some c ↔ ∃ sl, s.slot? sel = some sl ∧ sl.life = .live c := by
  simp [State.chip?, Option.bind_eq_some_iff, Slot.chip?_eq_some]

/-- The null handle names no instance. -/
@[simp] theorem State.chip?_null (s : State) : s.chip? .null = none := rfl

@[simp] theorem State.slot?_null (s : State) : s.slot? .null = none := rfl

/-- The instance put into a slot is the one read from it. -/
theorem State.chip?_setChip_self {s : State} {sel : ChipSel} {sl : Slot} (h : s.slot? sel = some sl) (c : Chip) :
    (s.setChip sel c).chip? sel = some c := by
  simp [State.chip?, State.setChip, h]

/-- Putting an instance into a slot leaves the streams of that slot. -/
@[simp] theorem State.slot?_setChip_self (s : State) (sel : ChipSel) (c : Chip) :
    (s.setChip sel c).slot? sel = (s.slot? sel).map fun sl => { sl with life := .live c } := by
  simp [State.setChip]

/-- Putting an instance into a slot leaves every other slot. -/
theorem State.slot?_setChip_other (s : State) {sel sel' : ChipSel} (h : sel' ≠ sel) (c : Chip) :
    (s.setChip sel c).slot? sel' = s.slot? sel' := State.slot?_modifySlot_other s h _

/-- Emitting appends to the two streams of a slot. -/
@[simp] theorem State.slot?_emit_self (s : State) (sel : ChipSel) (p : List Sample) (d : List (BitVec 64)) :
    (s.emit sel p d).slot? sel =
      (s.slot? sel).map fun sl => { sl with pcm := sl.pcm ++ p, dump := sl.dump ++ d } := by
  simp [State.emit]

/-- Emitting leaves every other slot. -/
theorem State.slot?_emit_other (s : State) {sel sel' : ChipSel} (h : sel' ≠ sel) (p : List Sample)
    (d : List (BitVec 64)) : (s.emit sel p d).slot? sel' = s.slot? sel' := State.slot?_modifySlot_other s h _

/-- Ending a command reads no slot and changes none. -/
@[simp] theorem State.slot?_ends (s : State) (D : Design) (cmd : CommandKind) (e : Ending) (r0 r1 r2 : Word)
    (sel : ChipSel) : (s.ends D cmd e r0 r1 r2).slot? sel = s.slot? sel := by cases sel <;> rfl

@[simp] theorem State.slot?_notices (s : State) (ds : List Notice) (sel : ChipSel) :
    (s.notices ds).slot? sel = s.slot? sel := by cases sel <;> rfl

@[simp] theorem State.slot?_draw (s : State) (n : Nat) (sel : ChipSel) : (s.draw n).slot? sel = s.slot? sel := by
  cases sel <;> rfl

/-- The members of the slots after one was changed: the old ones or the changed one. -/
theorem State.mem_modifySlot {s : State} {sel : ChipSel} {f : Slot → Slot} {sl : Slot}
    (h : sl ∈ (s.modifySlot sel f).chips) : sl ∈ s.chips ∨ ∃ sl', s.slot? sel = some sl' ∧ sl = f sl' := by
  cases sel with
  | null => exact .inl h
  | slot n =>
    obtain ⟨m, hm, rfl⟩ := List.mem_iff_getElem.mp h
    simp only [State.modifySlot, List.getElem_modify]
    have hm' : m < s.chips.length := by simpa [State.modifySlot] using hm
    split
    · next e => exact .inr ⟨s.chips[m], by simp [State.slot?, e, hm'], rfl⟩
    · exact .inl (List.getElem_mem hm')

end Sys2Proof.Machine
end

