-- ==== Sys2Proof/Laws/Commands.lean ====
section
/-! SUPPORT. Laws of the shared parts of the commands: a Live slot read by its handle, what one append can do, and
what changing one slot leaves. -/

namespace Sys2Proof.Machine

open Sys2Proof.Config

/-- A Live slot is read by its handle. -/
theorem State.LiveAt.chip? {s : State} {n : SlotNo} {sl : Slot} {c : Chip} (h : s.LiveAt n sl c) :
    s.chip? (.slot n) = some c := State.chip?_eq_some.mpr ⟨sl, h.slot, h.life⟩

/-- A handle that reads an instance names a Live slot. -/
theorem State.liveAt_of_chip? {s : State} {n : SlotNo} {c : Chip} (h : s.chip? (.slot n) = some c) :
    ∃ sl, s.LiveAt n sl c := by
  obtain ⟨sl, h1, h2⟩ := State.chip?_eq_some.mp h
  exact ⟨sl, h1, h2⟩

/-- A handle that reads an instance is a slot number. -/
theorem State.liveAt_of_chip?_sel {s : State} {sel : ChipSel} {c : Chip} (h : s.chip? sel = some c) :
    ∃ n sl, sel = .slot n ∧ s.LiveAt n sl c := by
  cases sel with
  | null => cases h
  | slot n =>
    obtain ⟨sl, hl⟩ := State.liveAt_of_chip? h
    exact ⟨n, sl, rfl, hl⟩

/-! ## Checks -/

/-- A command behind its checks: it fails with the status of one, or it does what it does. -/
theorem State.guarded_cases (s : State) (D : Design) (cmd : CommandKind) (f : Failing) (body : State) :
    (∃ st, D.decisions.checks.verdict cmd f = some st ∧ s.guarded D cmd f body = s.ends D cmd (.failed st)) ∨
      D.decisions.checks.verdict cmd f = none ∧ s.guarded D cmd f body = body := by
  unfold State.guarded
  cases D.decisions.checks.verdict cmd f with
  | some st => exact .inl ⟨st, rfl, rfl⟩
  | none => exact .inr ⟨rfl, rfl⟩

/-- The spec's checks, in their order (60_exceptions.md R328). -/
theorem State.guarded_design (s : State) (cmd : CommandKind) (f : Failing) (body : State) :
    s.guarded design cmd f body =
      if f.handle then s.ends design cmd (.failed .eInval)
      else if cmd.checksLifecycle && (f.init || f.live) then s.ends design cmd (.failed .eState)
      else if cmd = .run && f.alignment then s.ends design cmd (.failed .eInval)
      else if cmd = .run && f.buffer then s.ends design cmd (.failed .eInval)
      else if cmd = .run && f.binding then s.ends design cmd (.failed .eState)
      else body := by
  simp only [State.guarded, design_decisions, verdict_decisions]
  repeat' split
  all_goals simp_all

/-- A command on a handle that names no Live instance fails with E_INVAL (30_encoding.md R96). -/
theorem State.onChip_dead {s : State} {sel : ChipSel} (h : s.chip? sel = none) (cmd : CommandKind) (f : Failing)
    (body : Chip → State) : s.onChip design cmd sel f body = s.ends design cmd (.failed .eInval) := by
  simp [State.onChip, State.guarded_design, State.failing, h]

/-- A command on a Live instance that checks nothing but the handle. -/
theorem State.onChip_live {s : State} {sel : ChipSel} {c : Chip} (h : s.chip? sel = some c) {cmd : CommandKind}
    (hc : cmd.checksLifecycle = false) (hr : cmd ≠ .run) (f : Failing) (body : Chip → State) :
    s.onChip design cmd sel f body = body c := by
  simp [State.onChip, State.guarded_design, State.failing, h, hc, hr]

/-- A command on a Live instance with an engine bound, none of whose other conditions fails, passes the checks of every
design. -/
theorem State.onChip_bound {s : State} {sel : ChipSel} {c : Chip} {e : EngineState} (h : s.chip? sel = some c)
    (he : c.binding.engine? = some e) (D : Design) (cmd : CommandKind) (body : Chip → State) :
    s.onChip D cmd sel {} body = body c := by
  have hn : D.decisions.checks.verdict cmd (s.failing sel {}) = none :=
    Checks.verdict_eq_none _ _ fun k => by cases k <;> simp [Failing.at, State.failing, h, he]
  simp [State.onChip, State.guarded, hn, h]

/-! ## Appends -/

/-- An event for one queue, under every design: one append, or one drop more and nothing else
(40_register_write.md R132). -/
theorem Chip.enqueue_one (P : Params) (D : Design) (c : Chip) (id : QueueId) (e : Event) :
    c.enqueue P D [id] e = if c.poolUsed < P.poolCap then c.append e id else c.countDrops D 1 := by
  simp only [Chip.enqueue, D.decisions.writes.accept_one, Nat.sub_pos_iff_lt]
  split <;> simp

/-- No event and no drop for no queue, under the spec's design. -/
@[simp] theorem Chip.enqueue_nil (P : Params) (c : Chip) (e : Event) : c.enqueue P design [] e = c := by
  simp [Chip.enqueue]

/-- An event for two queues, under the spec's design: each append judged on its own (40_register_write.md R132). -/
theorem Chip.enqueue_two (P : Params) (c : Chip) (id id' : QueueId) (e : Event) :
    c.enqueue P design [id, id'] e =
      if c.poolUsed + 2 ≤ P.poolCap then (c.append e id).append e id'
      else if c.poolUsed + 1 = P.poolCap then (c.append e id).countDrops design 1
      else c.countDrops design 2 := by
  simp only [Chip.enqueue, design_decisions, decisions_accept, List.length_cons, List.length_nil]
  split
  · next h =>
    obtain ⟨k, hk⟩ : ∃ k, P.poolCap - c.poolUsed = k + 2 := ⟨P.poolCap - c.poolUsed - 2, by omega⟩
    simp [hk]
  · split
    · next h => simp [show P.poolCap - c.poolUsed = 1 by omega]
    · next h => simp [show P.poolCap - c.poolUsed = 0 by omega]

/-- Appending one event to several queues takes one slot for each. -/
theorem Chip.foldl_append_poolUsed (e : Event) (ids : List QueueId) (c : Chip) :
    (ids.foldl (Chip.append e) c).poolUsed = c.poolUsed + ids.length := by
  induction ids generalizing c with
  | nil => rfl
  | cons id ids ih =>
    rw [List.foldl_cons, ih]
    simp only [Chip.append_poolUsed, List.length_cons]
    omega

/-- The arena is never overfilled, under every design (10_state.md R32, R47). -/
theorem Chip.enqueue_poolUsed_le {P : Params} {c : Chip} (h : c.poolUsed ≤ P.poolCap) (D : Design) (ids : List QueueId)
    (e : Event) : (c.enqueue P D ids e).poolUsed ≤ P.poolCap := by
  have := D.decisions.writes.accept_le (P.poolCap - c.poolUsed) ids
  simp only [Chip.enqueue, Chip.countDrops_poolUsed, Chip.foldl_append_poolUsed]
  omega

/-- Putting an instance into a Live slot changes that slot only. -/
theorem State.changedOnly_setChip {s : State} {n : SlotNo} {sl : Slot} {c : Chip} (h : s.LiveAt n sl c) (c' : Chip)
    (cmd : CommandKind) (r0 : Word) :
    ChangedOnly s ((s.setChip (.slot n) c').ends design cmd .done r0 0 0) n { sl with life := .live c' } r0 where
  slot := by simp [h.slot]
  others :=
    { length := by simp
      slots := fun m hm => by
        rw [State.slot?_ends, State.slot?_setChip_other]
        intro e
        cases e
        exact hm rfl }
  beside := { g := by simp, diag := by simp, cmds := by simp, draws := by simp }
  answer := rfl

end Sys2Proof.Machine
end

