-- ==== Sys2Proof/Laws/Effects.lean ====
section
/-! SUPPORT. Everything a command can do to the slots and to `G`, said once, under every configuration: `command_effect`,
and `exec_effect` for the machine. Claims about every command go by cases on it. -/

namespace Sys2Proof.Machine

open Sys2Proof.Config

/-- What a command can make of the Live instance `c` it names, but for RUN, RESET and CLEANUP. -/
inductive ChipUpdate (P : Params) (D : Design) (i : Instr) (n : SlotNo) (c : Chip) : Chip → Prop where
  | write (r : PortIndex) (v : Byte) (m : Nat) (cmd : i = .wr r (.slot n) v m) : ChipUpdate P D i n c (c.write P D r v m)
  | rebase (m : Nat) (cmd : i = .cycleAdjust (.slot n) m) : ChipUpdate P D i n c (c.cycleAdjust D m)
  | configure (id clk hz : Word) (kind : EngineKind) (ok : Bool) (cmd : i = .configure (.slot n) id clk hz) :
      ChipUpdate P D i n c (c.rebind P D kind (P.rateAdjust kind (clamp hz.toNat P.rateMin P.rateMax)) ok).chip
  | mask (clr set : Word) (new : BitVec 3) (cmd : i = .setActive (.slot n) clr set) : ChipUpdate P D i n c (c.withMask D new)
  | rate (hz : Word) (cmd : i = .setRate (.slot n) hz) :
      ChipUpdate P D i n c { c with sampleRateHz := c.effectiveRate P hz.toNat }
  | engine (id : Word) (kind : EngineKind) (ok : Bool) (cmd : i = .setEngine (.slot n) id) :
      
      ChipUpdate P D i n c (c.switchEngine D kind (P.rateAdjust kind c.sampleRateHz) ok).chip

/-- What a command does to the slots and to `G`. Where what it does rests on its checks, the constructor says that they
passed: `verdict_decisions` (Laws/Design.lean) says what that means in the spec's design. -/
inductive Effect (P : Params) (D : Design) (i : Instr) (s t : State) : Prop where
  /-- an error, a query, BUFSIZE: nothing -/
  | quiet (chips : t.chips = s.chips) (g : t.g = s.g)
  /-- SETACTIVE with the null handle, or one the design takes for it -/
  | defaultMask (sel : ChipSel) (clr set : Word) (new : BitVec 3) (cmd : i = .setActive sel clr set)
      (target : s.setterTarget D sel = .null)
      (passed : D.decisions.checks.verdict .setActive (s.setterFailing .null) = none)
      (chips : t.chips = s.chips) (g : t.g = D.decisions.transitions.nullActive new s.g)
  /-- SETRATE with the null handle, in a design where that is no error -/
  | defaultRate (hz : Word) (g' : Global) (cmd : i = .setRate .null hz)
      (allowed : D.decisions.transitions.nullRate (clamp hz.toNat P.rateMin P.rateMax) s.g = some g')
      (chips : t.chips = s.chips) (g : t.g = g')
  /-- SET_ENGINE with the null handle, or one the design takes for it -/
  | defaultEngine (sel : ChipSel) (id : Word) (kind : EngineKind) (cmd : i = .setEngine sel id)
      (target : s.setterTarget D sel = .null)
      (passed : D.decisions.checks.verdict .setEngine (s.setterFailing .null) = none)
      (chips : t.chips = s.chips) (g : t.g = D.decisions.transitions.nullEngine kind s.g)
  /-- SET_VOLMODEL -/
  | model (sel : ChipSel) (id : Word) (m : VolModel) (cmd : i = .setVolModel sel id)
      (passed : D.decisions.checks.verdict .setVolModel (s.setterFailing (s.setterTarget D sel)) = none)
      (chips : t.chips = s.chips) (g : t.g = s.g.selectModel P D m)
  /-- a command on a Live instance that changes that instance and no stream -/
  | update (n : SlotNo) (sl : Slot) (c c' : Chip) (live : s.LiveAt n sl c) (upd : ChipUpdate P D i n c c')
      (chips : t.chips = (s.setChip (.slot n) c').chips) (g : t.g = s.g)
  /-- RESET -/
  | restarted (n : SlotNo) (sl : Slot) (c : Chip) (m : Nat) (cmd : i = .reset (.slot n) m) (live : s.LiveAt n sl c)
      (chips : t.chips = (s.modifySlot (.slot n) (Slot.reset D m c)).chips) (g : t.g = s.g)
  /-- RUN -/
  | ran (n : SlotNo) (sl : Slot) (c : Chip) (e : EngineState) (elapsed : Nat) (bufv : Bool) (live : s.LiveAt n sl c)
      (cmd : i = .run (.slot n) elapsed bufv) (bound : c.binding.engine? = some e)
      (passed : D.decisions.checks.verdict .run
        (s.failing (.slot n) { alignment := elapsed % 32 ≠ 0, buffer := !bufv }) = none)
      (chips : t.chips = ((s.setChip (.slot n) (c.engineRun P D s.g.volTable e elapsed).chip).emit (.slot n)
        (c.engineRun P D s.g.volTable e elapsed).pcm (c.engineRun P D s.g.volTable e elapsed).dump).chips)
      (g : t.g = s.g)
  /-- CREATE -/
  | created (n : SlotNo) (sl : Slot) (cmd : i = .create (.slot n)) (slot : s.slot? (.slot n) = some sl)
      (passed : D.decisions.checks.verdict .create (s.createFailing (.slot n)) = none)
      (chips : t.chips = (s.modifySlot (.slot n) fun _ => (D.create P s.g (engineSetup P s) sl).slot).chips)
      (g : t.g = s.g)
  /-- CLEANUP -/
  | destroyed (n : SlotNo) (sl : Slot) (c : Chip) (cmd : i = .cleanup (.slot n)) (live : s.LiveAt n sl c)
      (chips : t.chips = (s.modifySlot (.slot n) (Slot.cleanup D)).chips) (g : t.g = s.g)
  /-- GLOBAL_INIT -/
  | opened (cmd : i = .globalInit)
      (passed : D.decisions.checks.verdict .globalInit { init := s.g.init } = none)
      (chips : t.chips = (D.decisions.lifetime.opened s.g (Global.initial P D) s.chips).2)
      (g : t.g = (D.decisions.lifetime.opened s.g (Global.initial P D) s.chips).1)
  /-- GLOBAL_SHUTDOWN -/
  | closed (cmd : i = .globalShutdown)
      (passed : D.decisions.checks.verdict .globalShutdown { init := !s.g.init, live := s.anyLive } = none)
      (chips : t.chips = (D.decisions.lifetime.closed s.draws s.g s.chips).2)
      (g : t.g = (D.decisions.lifetime.closed s.draws s.g s.chips).1)

/-- An effect behind checks: nothing, or what follows once they passed. -/
theorem effect_guarded {P : Params} {D : Design} {i : Instr} {s body : State} {cmd : CommandKind} {f : Failing}
    (h : D.decisions.checks.verdict cmd f = none → Effect P D i s body) : Effect P D i s (s.guarded D cmd f body) := by
  rcases State.guarded_cases s D cmd f body with ⟨st, _, e⟩ | ⟨hn, e⟩ <;> rw [e]
  · exact .quiet rfl rfl
  · exact h hn

/-- An effect on an instance: nothing, or what follows once it is Live and the checks passed. -/
theorem effect_onChip {P : Params} {D : Design} {i : Instr} {s : State} {cmd : CommandKind} {sel : ChipSel} {f : Failing}
    {body : Chip → State}
    (h : ∀ n sl c, sel = .slot n → s.LiveAt n sl c → D.decisions.checks.verdict cmd (s.failing sel f) = none →
      Effect P D i s (body c)) : Effect P D i s (s.onChip D cmd sel f body) := by
  refine effect_guarded fun hn => ?_
  cases hc : s.chip? sel with
  | none => exact .quiet rfl rfl
  | some c =>
    obtain ⟨n, sl, rfl, hl⟩ := State.liveAt_of_chip?_sel hc
    exact h n sl c rfl hl hn

/-- A write of port index `r`. -/
theorem effect_write (P : Params) (D : Design) (r : PortIndex) (sel : ChipSel) (v : Byte) (m : Nat) (s : State) :
    Effect P D (.wr r sel v m) s (write P D sel r v m s) := by
  refine effect_onChip fun n sl c hs hl _ => ?_
  subst hs
  exact .update n sl c _ hl (.write r v m rfl) rfl (by simp)

/-- CYCLEADJUST. -/
theorem effect_cycleAdjust (P : Params) (D : Design) (sel : ChipSel) (m : Nat) (s : State) :
    Effect P D (.cycleAdjust sel m) s (cycleAdjust D sel m s) := by
  refine effect_onChip fun n sl c hs hl _ => ?_
  subst hs
  exact .update n sl c _ hl (.rebase m rfl) rfl (by simp)

/-- RESET. -/
theorem effect_reset (P : Params) (D : Design) (sel : ChipSel) (m : Nat) (s : State) :
    Effect P D (.reset sel m) s (reset D sel m s) := by
  refine effect_onChip fun n sl c hs hl _ => ?_
  subst hs
  exact .restarted n sl c m rfl hl rfl (by simp)

/-- BUFSIZE. -/
theorem effect_bufSize (P : Params) (D : Design) (sel : ChipSel) (m : Nat) (s : State) :
    Effect P D (.bufSize sel m) s (bufSize D sel m s) :=
  effect_onChip fun _ _ _ _ _ _ => .quiet rfl rfl

/-- RUN. -/
theorem effect_run (P : Params) (D : Design) (sel : ChipSel) (m : Nat) (b : Bool) (s : State) :
    Effect P D (.run sel m b) s (run P D sel m b s) := by
  refine effect_onChip fun n sl c hs hl hp => ?_
  subst hs
  split
  · exact .quiet rfl rfl
  · next e he => exact .ran n sl c e m b hl rfl he hp rfl (by simp)

/-- CONFIGURE. -/
theorem effect_configure (P : Params) (D : Design) (sel : ChipSel) (id clk hz : Word) (s : State) :
    Effect P D (.configure sel id clk hz) s (configure P D sel id clk hz s) := by
  refine effect_onChip fun n sl c hs hl _ => ?_
  subst hs
  exact .update n sl c _ hl (.configure id clk hz _ _ rfl) rfl (by simp)

/-- CLEANUP. -/
theorem effect_cleanup (P : Params) (D : Design) (sel : ChipSel) (s : State) :
    Effect P D (.cleanup sel) s (cleanup D sel s) := by
  refine effect_onChip fun n sl c hs hl _ => ?_
  subst hs
  exact .destroyed n sl c rfl hl rfl rfl

/-- CREATE. -/
theorem effect_create (P : Params) (D : Design) (sel : ChipSel) (s : State) :
    Effect P D (.create sel) s (create P D sel s) := by
  refine effect_guarded fun hp => ?_
  cases sel with
  | null => exact .quiet rfl rfl
  | slot n =>
    cases hs : s.slot? (.slot n) with
    | none => exact .quiet rfl rfl
    | some sl =>
      exact .created n sl rfl hs hp rfl (by simp)

/-- A setter that goes by a slot was given that slot. -/
theorem State.setterTarget_slot {s : State} {D : Design} {sel : ChipSel} {n : SlotNo}
    (h : s.setterTarget D sel = .slot n) : sel = .slot n := by
  unfold State.setterTarget at h
  split at h
  · cases h
  · exact h

/-- SETACTIVE. -/
theorem effect_setActive (P : Params) (D : Design) (sel : ChipSel) (clr set : Word) (s : State) :
    Effect P D (.setActive sel clr set) s (setActive D sel clr set s) := by
  refine effect_guarded fun hp => ?_
  cases ht : s.setterTarget D sel with
  | null => exact .defaultMask sel clr set _ rfl ht (ht ▸ hp) rfl rfl
  | slot n =>
    obtain rfl := State.setterTarget_slot ht
    cases hc : s.chip? (.slot n) with
    | none =>
      simp only [hc]
      exact .quiet rfl rfl
    | some c =>
      simp only [hc]
      obtain ⟨sl, hl⟩ := State.liveAt_of_chip? hc
      exact .update n sl c _ hl (.mask clr set _ rfl) rfl (by simp)

/-- SETRATE. -/
theorem effect_setRate (P : Params) (D : Design) (sel : ChipSel) (hz : Word) (s : State) :
    Effect P D (.setRate sel hz) s (setRate P D sel hz s) := by
  unfold setRate
  split
  · next g' h => exact .defaultRate hz g' rfl h rfl rfl
  · refine effect_onChip fun n sl c hs hl _ => ?_
    subst hs
    exact .update n sl c _ hl (.rate hz rfl) rfl (by simp)

/-- SET_ENGINE. -/
theorem effect_setEngine (P : Params) (D : Design) (sel : ChipSel) (id : Word) (s : State) :
    Effect P D (.setEngine sel id) s (setEngine P D sel id s) := by
  refine effect_guarded fun hp => ?_
  cases ht : s.setterTarget D sel with
  | null => exact .defaultEngine sel id _ rfl ht (ht ▸ hp) rfl rfl
  | slot n =>
    obtain rfl := State.setterTarget_slot ht
    cases hc : s.chip? (.slot n) with
    | none =>
      simp only [hc]
      exact .quiet rfl rfl
    | some c =>
      simp only [hc]
      split
      · exact .quiet rfl rfl
      · obtain ⟨sl, hl⟩ := State.liveAt_of_chip? hc
        exact .update n sl c _ hl (.engine id _ _ rfl) rfl (by simp)

/-- SET_VOLMODEL. -/
theorem effect_setVolModel (P : Params) (D : Design) (sel : ChipSel) (id : Word) (s : State) :
    Effect P D (.setVolModel sel id) s (setVolModel P D sel id s) :=
  effect_guarded fun hp => .model sel id _ rfl hp rfl rfl

/-- GLOBAL_INIT. -/
theorem effect_globalInit (P : Params) (D : Design) (s : State) : Effect P D .globalInit s (globalInit P D s) :=
  effect_guarded fun hp => .opened rfl hp rfl rfl

/-- GLOBAL_SHUTDOWN. -/
theorem effect_globalShutdown (P : Params) (D : Design) (s : State) :
    Effect P D .globalShutdown s (globalShutdown D s) :=
  effect_guarded fun hp => .closed rfl hp rfl rfl

/-- The effect of every command, under every configuration. -/
theorem command_effect (P : Params) (D : Design) (i : Instr) (s : State) : Effect P D i s (command P D i s) := by
  cases i
  case wr0 => exact effect_write P D 0 _ _ _ s
  case wr1 => exact effect_write P D 1 _ _ _ s
  case wr2 => exact effect_write P D 2 _ _ _ s
  case wr3 => exact effect_write P D 3 _ _ _ s
  case wr4 => exact effect_write P D 4 _ _ _ s
  case wr5 => exact effect_write P D 5 _ _ _ s
  case wr6 => exact effect_write P D 6 _ _ _ s
  case wr7 => exact effect_write P D 7 _ _ _ s
  case wr8 => exact effect_write P D 8 _ _ _ s
  case wr9 => exact effect_write P D 9 _ _ _ s
  case wr10 => exact effect_write P D 10 _ _ _ s
  case wr11 => exact effect_write P D 11 _ _ _ s
  case wr12 => exact effect_write P D 12 _ _ _ s
  case wr13 => exact effect_write P D 13 _ _ _ s
  case wr14 => exact effect_write P D 14 _ _ _ s
  case wr15 => exact effect_write P D 15 _ _ _ s
  case run => exact effect_run P D _ _ _ s
  case cycleAdjust => exact effect_cycleAdjust P D _ _ s
  case reset => exact effect_reset P D _ _ s
  case bufSize => exact effect_bufSize P D _ _ s
  case configure => exact effect_configure P D _ _ _ _ s
  case cleanup => exact effect_cleanup P D _ s
  case create => exact effect_create P D _ s
  case setActive => exact effect_setActive P D _ _ _ s
  case setRate => exact effect_setRate P D _ _ s
  case setEngine => exact effect_setEngine P D _ _ s
  case setVolModel => exact effect_setVolModel P D _ _ s
  case globalInit => exact effect_globalInit P D s
  case globalShutdown => exact effect_globalShutdown P D s

/-- The machine's own configuration: `exec` is the command at `hw` and `design`. -/
theorem exec_eq (i : Instr) (s : State) : exec i s = .next (command hw design i s) := by
  cases i <;> rfl

/-- The machine's power-on is that of `hw` and `design`. -/
theorem reset_eq : State.reset = powerOn hw design := rfl

/-- A command always answers a next state (60_exceptions.md R320). -/
theorem exec_next (i : Instr) (s : State) : ∃ t, exec i s = .next t := ⟨_, exec_eq i s⟩

/-- The effect of every command of the machine. -/
theorem exec_effect {i : Instr} {s t : State} (h : exec i s = .next t) : Effect hw design i s t := by
  rw [exec_eq] at h
  cases h
  exact command_effect hw design i s

/-- The step is the step at `hw` and `design`. -/
theorem step_eq (s : State) : step s = .next (stepUnder hw design s) := by
  unfold step stepUnder
  cases fetch s with
  | none => rfl
  | some p =>
    obtain ⟨w, s'⟩ := p
    simp only
    cases design.decisions.frames.command w with
    | command i => exact exec_eq i s'
    | reserved _ => rfl

end Sys2Proof.Machine
end

