-- ==== Sys2Proof/Laws/Encoding.lean ====
section
/-! SUPPORT. Laws of the frame: its fields are laid out where they are read. -/

namespace Sys2Proof

/-- The fields of a laid-out frame are the fields it was laid out from. -/
@[simp] theorem Frame.ofBits_toBits (f : Frame) : Frame.ofBits f.toBits = f := by
  cases f
  simp only [Frame.ofBits, Frame.toBits, Frame.mk.injEq]
  refine ⟨?_, ?_, ?_, ?_, ?_, ?_, ?_, ?_⟩ <;>
    (apply BitVec.eq_of_getLsbD_eq; intro i hi; grind)

/-- A 128-bit word is laid out from its own fields. -/
@[simp] theorem Frame.toBits_ofBits (w : FrameBits) : (Frame.ofBits w).toBits = w := by
  apply BitVec.eq_of_getLsbD_eq
  intro i hi
  simp only [Frame.ofBits, Frame.toBits, BitVec.getLsbD_append, BitVec.getLsbD_extractLsb']
  grind

/-- The handle of a laid-out handle. -/
@[simp] theorem chipOfField_fieldOfChip (sel : ChipSel) : chipOfField (fieldOfChip sel) = sel := by
  cases sel with
  | null => decide
  | slot n =>
    have h := n.isLt
    have h' : n.val % 256 = n.val := Nat.mod_eq_of_lt (by omega)
    simp [chipOfField, fieldOfChip, h']

/-- The CHIP field of the handle a CHIP field names. -/
@[simp] theorem fieldOfChip_chipOfField (v : BitVec 8) : fieldOfChip (chipOfField v) = v := by
  unfold chipOfField
  split
  · simp [fieldOfChip]
  · have := v.isLt
    apply BitVec.eq_of_toNat_eq
    simp [fieldOfChip]
    omega

/-- An in-range number laid out in an operand word is read back from bits 30:0. -/
theorem ofNat_extract_span {n : Nat} (h : n < 2 ^ 31) :
    ((BitVec.ofNat 32 n).extractLsb' 0 31).toNat = n := by
  simp [BitVec.extractLsb'_toNat]
  omega

/-- The high bit of an in-range number's operand word is zero. -/
theorem ofNat_extract_high {n : Nat} (h : n < 2 ^ 31) : (BitVec.ofNat 32 n).extractLsb' 31 1 = 0 := by
  apply BitVec.eq_of_toNat_eq
  simp [BitVec.extractLsb'_toNat, Nat.shiftRight_eq_div_pow]
  omega

/-- A byte laid out in an operand word leaves bits 31:8 zero. -/
theorem setWidth_extract_high (v : Byte) : (v.setWidth 32).extractLsb' 8 24 = 0 := by
  apply BitVec.eq_of_toNat_eq
  have := v.isLt
  simp [BitVec.extractLsb'_toNat, Nat.shiftRight_eq_div_pow]
  omega

/-- A byte laid out in an operand word is read back from bits 7:0. -/
theorem setWidth_extract_low (v : Byte) : (v.setWidth 32).extractLsb' 0 8 = v := by
  apply BitVec.eq_of_toNat_eq
  have := v.isLt
  simp [BitVec.extractLsb'_toNat]
  omega

end Sys2Proof
end

