-- ==== Sys2Proof/Laws/Generators.lean ====
section
/-! SUPPORT. Laws of the generators: which parts of the engine state each tick touches. -/

namespace Sys2Proof.Machine

open Sys2Proof.Config

/-! ### Tone: only the tone counters and phases -/

@[simp] theorem stepTones_noiseCnt (d : Decisions) (x : RegFile) (e : EngineState) : (stepTones d x e).noiseCnt = e.noiseCnt := rfl
@[simp] theorem stepTones_lfsr (d : Decisions) (x : RegFile) (e : EngineState) : (stepTones d x e).lfsr = e.lfsr := rfl
@[simp] theorem stepTones_envCnt (d : Decisions) (x : RegFile) (e : EngineState) : (stepTones d x e).envCnt = e.envCnt := rfl
@[simp] theorem stepTones_envPos (d : Decisions) (x : RegFile) (e : EngineState) : (stepTones d x e).envPos = e.envPos := rfl
@[simp] theorem stepTones_filter (d : Decisions) (x : RegFile) (e : EngineState) : (stepTones d x e).filter = e.filter := rfl

/-! ### Noise: only the noise counter and the register -/

@[simp] theorem stepNoise_tone (p : Nat) (e : EngineState) : (stepNoise p e).tone = e.tone := by
  unfold stepNoise; split <;> rfl
@[simp] theorem stepNoise_envCnt (p : Nat) (e : EngineState) : (stepNoise p e).envCnt = e.envCnt := by
  unfold stepNoise; split <;> rfl
@[simp] theorem stepNoise_envPos (p : Nat) (e : EngineState) : (stepNoise p e).envPos = e.envPos := by
  unfold stepNoise; split <;> rfl
@[simp] theorem stepNoise_filter (p : Nat) (e : EngineState) : (stepNoise p e).filter = e.filter := by
  unfold stepNoise; split <;> rfl

/-- The noise register stays or is shifted once. -/
theorem stepNoise_lfsr (p : Nat) (e : EngineState) :
    (stepNoise p e).lfsr = e.lfsr ∨ (stepNoise p e).lfsr = shiftLfsr e.lfsr := by
  unfold stepNoise
  split
  · exact .inr rfl
  · exact .inl rfl

/-! ### Envelope: only the envelope counter and position -/

@[simp] theorem stepEnvelope_tone (p : Nat) (e : EngineState) : (stepEnvelope p e).tone = e.tone := by
  unfold stepEnvelope; split <;> rfl
@[simp] theorem stepEnvelope_noiseCnt (p : Nat) (e : EngineState) : (stepEnvelope p e).noiseCnt = e.noiseCnt := by
  unfold stepEnvelope; split <;> rfl
@[simp] theorem stepEnvelope_lfsr (p : Nat) (e : EngineState) : (stepEnvelope p e).lfsr = e.lfsr := by
  unfold stepEnvelope; split <;> rfl
@[simp] theorem stepEnvelope_filter (p : Nat) (e : EngineState) : (stepEnvelope p e).filter = e.filter := by
  unfold stepEnvelope; split <;> rfl

@[simp] theorem restartEnvelope_tone (e : EngineState) : e.restartEnvelope.tone = e.tone := rfl
@[simp] theorem restartEnvelope_noiseCnt (e : EngineState) : e.restartEnvelope.noiseCnt = e.noiseCnt := rfl
@[simp] theorem restartEnvelope_lfsr (e : EngineState) : e.restartEnvelope.lfsr = e.lfsr := rfl
@[simp] theorem restartEnvelope_filter (e : EngineState) : e.restartEnvelope.filter = e.filter := rfl

/-! ### All of them -/

@[simp] theorem stepGenerators_filter (d : Decisions) (x : RegFile) (e : EngineState) : (stepGenerators d x e).filter = e.filter := by
  simp [stepGenerators]

theorem stepNoise_withFilter (p : Nat) (e : EngineState) (f : Nat) :
    stepNoise p { e with filter := f } = { stepNoise p e with filter := f } := by
  simp only [stepNoise]
  split <;> rfl

theorem stepEnvelope_withFilter (p : Nat) (e : EngineState) (f : Nat) :
    stepEnvelope p { e with filter := f } = { stepEnvelope p e with filter := f } := by
  simp only [stepEnvelope]
  split <;> rfl

/-- The filter state has no part in a tick of the generators. -/
theorem stepGenerators_withFilter (d : Decisions) (x : RegFile) (e : EngineState) (f : Nat) :
    stepGenerators d x { e with filter := f } = { stepGenerators d x e with filter := f } := by
  have h : stepTones d x { e with filter := f } = { stepTones d x e with filter := f } := rfl
  rw [stepGenerators, h, stepNoise_withFilter, stepEnvelope_withFilter]
  rfl

/-- A tick stays with the noise register or shifts it once. -/
theorem stepGenerators_lfsr (d : Decisions) (x : RegFile) (e : EngineState) :
    (stepGenerators d x e).lfsr = e.lfsr ∨ (stepGenerators d x e).lfsr = shiftLfsr e.lfsr := by
  simp only [stepGenerators, stepEnvelope_lfsr]
  exact stepNoise_lfsr _ _

end Sys2Proof.Machine
end

