-- ==== Sys2Proof/Laws/PerInstr.lean ====
section
/-! SUPPORT. Laws stated per command: what the encoder lays out for each (30_encoding.md R92, R94). -/

namespace Sys2Proof.Laws.EncodedFrame

open Sys2Proof Sys2Proof.Machine

/-- The frame of a command: its fields are read back, the header's must-be-zero bits are zero, the opcode is one of the
map's, the CHIP field is the handle's (0xFF for the global commands), and BUFV is set by RUN alone. -/
def Statement (i : Instr) : Prop :=
  Frame.ofBits (encode i) = i.frame ∧ i.frame.headerZero = true ∧ i.frame.opc.toNat ≤ 0x1C ∧
    i.frame.chip = fieldOfChip ((handleOf i).getD .null) ∧
    (i.frame.bufv = 1 → ∃ chip elapsed, i = .run chip elapsed true)

/-- The frame of WR0. -/
theorem wr0 (chip : ChipSel) (value : Byte) (cycle : Nat) : Statement (.wr0 chip value cycle) :=
  ⟨Frame.ofBits_toBits _, rfl, (by decide : (0x00 : Nat) ≤ 0x1C), rfl,
    fun h => absurd h (by decide : (0 : BitVec 1) ≠ 1)⟩

/-- The frame of WR1. -/
theorem wr1 (chip : ChipSel) (value : Byte) (cycle : Nat) : Statement (.wr1 chip value cycle) :=
  ⟨Frame.ofBits_toBits _, rfl, (by decide : (0x01 : Nat) ≤ 0x1C), rfl,
    fun h => absurd h (by decide : (0 : BitVec 1) ≠ 1)⟩

/-- The frame of WR2. -/
theorem wr2 (chip : ChipSel) (value : Byte) (cycle : Nat) : Statement (.wr2 chip value cycle) :=
  ⟨Frame.ofBits_toBits _, rfl, (by decide : (0x02 : Nat) ≤ 0x1C), rfl,
    fun h => absurd h (by decide : (0 : BitVec 1) ≠ 1)⟩

/-- The frame of WR3. -/
theorem wr3 (chip : ChipSel) (value : Byte) (cycle : Nat) : Statement (.wr3 chip value cycle) :=
  ⟨Frame.ofBits_toBits _, rfl, (by decide : (0x03 : Nat) ≤ 0x1C), rfl,
    fun h => absurd h (by decide : (0 : BitVec 1) ≠ 1)⟩

/-- The frame of WR4. -/
theorem wr4 (chip : ChipSel) (value : Byte) (cycle : Nat) : Statement (.wr4 chip value cycle) :=
  ⟨Frame.ofBits_toBits _, rfl, (by decide : (0x04 : Nat) ≤ 0x1C), rfl,
    fun h => absurd h (by decide : (0 : BitVec 1) ≠ 1)⟩

/-- The frame of WR5. -/
theorem wr5 (chip : ChipSel) (value : Byte) (cycle : Nat) : Statement (.wr5 chip value cycle) :=
  ⟨Frame.ofBits_toBits _, rfl, (by decide : (0x05 : Nat) ≤ 0x1C), rfl,
    fun h => absurd h (by decide : (0 : BitVec 1) ≠ 1)⟩

/-- The frame of WR6. -/
theorem wr6 (chip : ChipSel) (value : Byte) (cycle : Nat) : Statement (.wr6 chip value cycle) :=
  ⟨Frame.ofBits_toBits _, rfl, (by decide : (0x06 : Nat) ≤ 0x1C), rfl,
    fun h => absurd h (by decide : (0 : BitVec 1) ≠ 1)⟩

/-- The frame of WR7. -/
theorem wr7 (chip : ChipSel) (value : Byte) (cycle : Nat) : Statement (.wr7 chip value cycle) :=
  ⟨Frame.ofBits_toBits _, rfl, (by decide : (0x07 : Nat) ≤ 0x1C), rfl,
    fun h => absurd h (by decide : (0 : BitVec 1) ≠ 1)⟩

/-- The frame of WR8. -/
theorem wr8 (chip : ChipSel) (value : Byte) (cycle : Nat) : Statement (.wr8 chip value cycle) :=
  ⟨Frame.ofBits_toBits _, rfl, (by decide : (0x08 : Nat) ≤ 0x1C), rfl,
    fun h => absurd h (by decide : (0 : BitVec 1) ≠ 1)⟩

/-- The frame of WR9. -/
theorem wr9 (chip : ChipSel) (value : Byte) (cycle : Nat) : Statement (.wr9 chip value cycle) :=
  ⟨Frame.ofBits_toBits _, rfl, (by decide : (0x09 : Nat) ≤ 0x1C), rfl,
    fun h => absurd h (by decide : (0 : BitVec 1) ≠ 1)⟩

/-- The frame of WR10. -/
theorem wr10 (chip : ChipSel) (value : Byte) (cycle : Nat) : Statement (.wr10 chip value cycle) :=
  ⟨Frame.ofBits_toBits _, rfl, (by decide : (0x0A : Nat) ≤ 0x1C), rfl,
    fun h => absurd h (by decide : (0 : BitVec 1) ≠ 1)⟩

/-- The frame of WR11. -/
theorem wr11 (chip : ChipSel) (value : Byte) (cycle : Nat) : Statement (.wr11 chip value cycle) :=
  ⟨Frame.ofBits_toBits _, rfl, (by decide : (0x0B : Nat) ≤ 0x1C), rfl,
    fun h => absurd h (by decide : (0 : BitVec 1) ≠ 1)⟩

/-- The frame of WR12. -/
theorem wr12 (chip : ChipSel) (value : Byte) (cycle : Nat) : Statement (.wr12 chip value cycle) :=
  ⟨Frame.ofBits_toBits _, rfl, (by decide : (0x0C : Nat) ≤ 0x1C), rfl,
    fun h => absurd h (by decide : (0 : BitVec 1) ≠ 1)⟩

/-- The frame of WR13. -/
theorem wr13 (chip : ChipSel) (value : Byte) (cycle : Nat) : Statement (.wr13 chip value cycle) :=
  ⟨Frame.ofBits_toBits _, rfl, (by decide : (0x0D : Nat) ≤ 0x1C), rfl,
    fun h => absurd h (by decide : (0 : BitVec 1) ≠ 1)⟩

/-- The frame of WR14. -/
theorem wr14 (chip : ChipSel) (value : Byte) (cycle : Nat) : Statement (.wr14 chip value cycle) :=
  ⟨Frame.ofBits_toBits _, rfl, (by decide : (0x0E : Nat) ≤ 0x1C), rfl,
    fun h => absurd h (by decide : (0 : BitVec 1) ≠ 1)⟩

/-- The frame of WR15. -/
theorem wr15 (chip : ChipSel) (value : Byte) (cycle : Nat) : Statement (.wr15 chip value cycle) :=
  ⟨Frame.ofBits_toBits _, rfl, (by decide : (0x0F : Nat) ≤ 0x1C), rfl,
    fun h => absurd h (by decide : (0 : BitVec 1) ≠ 1)⟩

/-- The frame of RUN. -/
theorem run (chip : ChipSel) (elapsed : Nat) (bufv : Bool) : Statement (.run chip elapsed bufv) :=
  ⟨Frame.ofBits_toBits _, rfl, (by decide : (0x10 : Nat) ≤ 0x1C), rfl, fun h => by
    cases bufv
    · exact absurd h (by decide : (0 : BitVec 1) ≠ 1)
    · exact ⟨chip, elapsed, rfl⟩⟩

/-- The frame of CYCLEADJUST. -/
theorem cycleAdjust (chip : ChipSel) (elapsed : Nat) : Statement (.cycleAdjust chip elapsed) :=
  ⟨Frame.ofBits_toBits _, rfl, (by decide : (0x11 : Nat) ≤ 0x1C), rfl,
    fun h => absurd h (by decide : (0 : BitVec 1) ≠ 1)⟩

/-- The frame of RESET. -/
theorem reset (chip : ChipSel) (atCycle : Nat) : Statement (.reset chip atCycle) :=
  ⟨Frame.ofBits_toBits _, rfl, (by decide : (0x12 : Nat) ≤ 0x1C), rfl,
    fun h => absurd h (by decide : (0 : BitVec 1) ≠ 1)⟩

/-- The frame of BUFSIZE. -/
theorem bufSize (chip : ChipSel) (elapsed : Nat) : Statement (.bufSize chip elapsed) :=
  ⟨Frame.ofBits_toBits _, rfl, (by decide : (0x13 : Nat) ≤ 0x1C), rfl,
    fun h => absurd h (by decide : (0 : BitVec 1) ≠ 1)⟩

/-- The frame of CONFIGURE. -/
theorem configure (chip : ChipSel) (engineId clockHz rateHz : Word) : Statement (.configure chip engineId clockHz rateHz) :=
  ⟨Frame.ofBits_toBits _, rfl, (by decide : (0x14 : Nat) ≤ 0x1C), rfl,
    fun h => absurd h (by decide : (0 : BitVec 1) ≠ 1)⟩

/-- The frame of CLEANUP. -/
theorem cleanup (chip : ChipSel) : Statement (.cleanup chip) :=
  ⟨Frame.ofBits_toBits _, rfl, (by decide : (0x15 : Nat) ≤ 0x1C), rfl,
    fun h => absurd h (by decide : (0 : BitVec 1) ≠ 1)⟩

/-- The frame of CREATE. -/
theorem create (chip : ChipSel) : Statement (.create chip) :=
  ⟨Frame.ofBits_toBits _, rfl, (by decide : (0x16 : Nat) ≤ 0x1C), rfl,
    fun h => absurd h (by decide : (0 : BitVec 1) ≠ 1)⟩

/-- The frame of SETACTIVE. -/
theorem setActive (chip : ChipSel) (clearMask setMask : Word) : Statement (.setActive chip clearMask setMask) :=
  ⟨Frame.ofBits_toBits _, rfl, (by decide : (0x17 : Nat) ≤ 0x1C), rfl,
    fun h => absurd h (by decide : (0 : BitVec 1) ≠ 1)⟩

/-- The frame of SETRATE. -/
theorem setRate (chip : ChipSel) (requestedHz : Word) : Statement (.setRate chip requestedHz) :=
  ⟨Frame.ofBits_toBits _, rfl, (by decide : (0x18 : Nat) ≤ 0x1C), rfl,
    fun h => absurd h (by decide : (0 : BitVec 1) ≠ 1)⟩

/-- The frame of SET_ENGINE. -/
theorem setEngine (chip : ChipSel) (engineId : Word) : Statement (.setEngine chip engineId) :=
  ⟨Frame.ofBits_toBits _, rfl, (by decide : (0x19 : Nat) ≤ 0x1C), rfl,
    fun h => absurd h (by decide : (0 : BitVec 1) ≠ 1)⟩

/-- The frame of SET_VOLMODEL. -/
theorem setVolModel (chip : ChipSel) (modelId : Word) : Statement (.setVolModel chip modelId) :=
  ⟨Frame.ofBits_toBits _, rfl, (by decide : (0x1A : Nat) ≤ 0x1C), rfl,
    fun h => absurd h (by decide : (0 : BitVec 1) ≠ 1)⟩

/-- The frame of GLOBAL_INIT. -/
theorem globalInit : Statement (.globalInit) :=
  ⟨Frame.ofBits_toBits _, rfl, (by decide : (0x1B : Nat) ≤ 0x1C), rfl,
    fun h => absurd h (by decide : (0 : BitVec 1) ≠ 1)⟩

/-- The frame of GLOBAL_SHUTDOWN. -/
theorem globalShutdown : Statement (.globalShutdown) :=
  ⟨Frame.ofBits_toBits _, rfl, (by decide : (0x1C : Nat) ≤ 0x1C), rfl,
    fun h => absurd h (by decide : (0 : BitVec 1) ≠ 1)⟩

end Sys2Proof.Laws.EncodedFrame
end

