-- ==== Sys2Proof/Laws/Volume.lean ====
section
/-! SUPPORT. Laws of the volume table: what is read at a packed index is what was built for the triple, a
contribution never exceeds the curve's maximum, and a selection rebuilds the table on a change. -/

namespace Sys2Proof.Machine

open Sys2Proof.Config

/-- The levels of a packed triple are the triple. -/
@[simp] theorem unpackLevels_packLevels (la lb lc : Level) : unpackLevels (packLevels la lb lc) = (la, lb, lc) := by
  simp only [unpackLevels, Prod.mk.injEq]
  refine ⟨?_, ?_, ?_⟩ <;> (apply BitVec.eq_of_getLsbD_eq; intro i hi; simp only [packLevels]; grind)

/-- A read at a packed triple is the entry of the triple. -/
theorem read_packLevels (t : VolTable) (la lb lc : Level) :
    t.read decisions (packLevels la lb lc) = t.entry la lb lc := by
  simp only [VolTable.read, decisions, levels, unpackLevels_packLevels]

/-- An entry of a table given by its entries. -/
theorem entry_ofFn (f : Fin 32 → Fin 32 → Fin 32 → Sample) (la lb lc : Level) :
    VolTable.entry (Vector.ofFn fun c => Vector.ofFn fun b => Vector.ofFn fun a => f a b c) la lb lc =
      f la.toFin lb.toFin lc.toFin := by
  simp [VolTable.entry, Vector.get_eq_getElem]

/-- A narrowed number fits. -/
theorem fitsSigned_narrow {bits : Nat} (h : 0 < bits) (v : Int) : FitsSigned bits (narrow bits v) := by
  obtain ⟨b, rfl⟩ : ∃ b, bits = b + 1 := ⟨bits - 1, by omega⟩
  have hm : 0 < 2 ^ (b + 1) := by positivity
  have hge := Int.le_bmod (x := v) hm
  have hlt := Int.bmod_lt (x := v) hm
  simp only [FitsSigned, narrow, Nat.add_sub_cancel]
  push_cast [pow_succ] at hge hlt ⊢
  omega

/-- A number that fits is its own narrowed form. -/
theorem narrow_of_fits {bits : Nat} (h : 0 < bits) {v : Int} (hv : FitsSigned bits v) : narrow bits v = v := by
  obtain ⟨b, rfl⟩ : ∃ b, bits = b + 1 := ⟨bits - 1, by omega⟩
  simp only [FitsSigned, Nat.add_sub_cancel] at hv
  refine Int.bmod_eq_of_le ?_ ?_ <;> push_cast [pow_succ] <;> omega

/-- What is read of a built table, at any index (42_volume_table.md R201). -/
theorem read_buildVolumeTable (P : Params) (m : VolModel) (peak : Nat) (idx : BitVec 15) :
    (buildVolumeTable P decisions m peak).read decisions idx = narrow 16 (volEntry P decisions m peak
      (unpackLevels idx).1.toFin (unpackLevels idx).2.1.toFin (unpackLevels idx).2.2.toFin) :=
  entry_ofFn (fun a b c => narrow 16 (volEntry P decisions m peak a b c)) _ _ _

/-- A contribution is at most CMAX. -/
theorem contribution_le_max (P : Params) (m : VolModel) (l : Fin 32) : contribution P m l ≤ contributionMax P m := by
  cases m with
  | linear => exact Nat.le_of_lt_succ l.isLt
  | nonlinear => exact P.curve_mono l 31 (Fin.le_last l)

/-- CMAX is positive. -/
theorem contributionMax_pos (P : Params) (m : VolModel) : 1 ≤ contributionMax P m := by
  cases m with
  | linear => exact (by decide : 1 ≤ (31 : Fin 32).val)
  | nonlinear => exact P.curve_max_pos

/-- A level 0 contributes nothing. -/
theorem contribution_zero (P : Params) (m : VolModel) : contribution P m 0 = 0 := by
  cases m with
  | linear => rfl
  | nonlinear => exact P.curve_zero

/-- The contribution curve is non-decreasing. -/
theorem contribution_mono (P : Params) (m : VolModel) {l l' : Fin 32} (h : l ≤ l') :
    contribution P m l ≤ contribution P m l' := by
  cases m with
  | linear => exact h
  | nonlinear => exact P.curve_mono l l' h

/-- The model in force after a selection in the spec's design: the table is rebuilt on a change (42_volume_table.md
R204). -/
theorem Global.selectModel_design (P : Params) (g : Global) (m : VolModel) :
    g.selectModel P design m =
      { g with
        volModel := m
        volTable := if m = g.volModel then g.volTable else buildVolumeTable P decisions m P.peakLevel } := by
  by_cases h : m = g.volModel <;> simp [Global.selectModel, h, eq_comm]

end Sys2Proof.Machine
end

