-- ==== Sys2Proof/Tests/Slice0.lean ====
section
/-! SUPPORT. Tests of single commands against the vectors of 95_test_vectors.md and of the rules' own examples, and a
witness for the hypotheses of every obligation that has some. The numbers of the vectors hold under the spec's example
parameters P1 (00_scope.md R9), so those tests run the operations at `exampleP1`; commands that read no parameter are
run by `exec`. -/

namespace Sys2Proof.Tests

open Sys2Proof Sys2Proof.Machine Sys2Proof.Config

/-! ## Well-formedness -/

/-- A stamp or span of 2^31 is one bit too wide for its field, in every command that has one (30_encoding.md R95). -/
theorem test_ill_formed_writes :
    ([.wr0 (.slot 0) 0 (2 ^ 31), .wr1 (.slot 0) 0 (2 ^ 31), .wr2 (.slot 0) 0 (2 ^ 31), .wr3 (.slot 0) 0 (2 ^ 31), .wr4 (.slot 0) 0 (2 ^ 31), .wr5 (.slot 0) 0 (2 ^ 31), .wr6 (.slot 0) 0 (2 ^ 31), .wr7 (.slot 0) 0 (2 ^ 31), .wr8 (.slot 0) 0 (2 ^ 31), .wr9 (.slot 0) 0 (2 ^ 31), .wr10 (.slot 0) 0 (2 ^ 31), .wr11 (.slot 0) 0 (2 ^ 31), .wr12 (.slot 0) 0 (2 ^ 31), .wr13 (.slot 0) 0 (2 ^ 31), .wr14 (.slot 0) 0 (2 ^ 31), .wr15 (.slot 0) 0 (2 ^ 31)] : List Instr).all (fun i => !i.wf) = true := by decide

/-- The same for the spans and the cycle of format N. -/
theorem test_ill_formed_spans :
    ([.run (.slot 0) (2 ^ 31) true, .cycleAdjust (.slot 0) (2 ^ 31), .reset (.slot 0) (2 ^ 31),
      .bufSize (.slot 0) (2 ^ 31)] : List Instr).all (fun i => !i.wf) = true := by decide

/-- The largest stamp and span are well-formed (95_test_vectors.md V13). -/
theorem test_largest_stamp_well_formed :
    (Instr.wr15 (.slot 0) 0 (2 ^ 31 - 1)).wf = true ∧ (Instr.run .null (2 ^ 31 - 1) false).wf = true := by decide

/-! ## Decoding: one frame written out for every command -/

/-- 40_register_write.md R133. -/
theorem test_decode_wr0 : decode 0x00000000_000000FF_00000000_00000000 = .command (.wr0 (.slot 0) 0xFF 0) := by decide

/-- R134. -/
theorem test_decode_wr1 : decode 0x01000000_0000000F_00000000_00000000 = .command (.wr1 (.slot 0) 0x0F 0) := by decide

/-- R135. -/
theorem test_decode_wr2 : decode 0x02000000_0000001C_00000064_00000000 = .command (.wr2 (.slot 0) 0x1C 100) := by decide

/-- R136. -/
theorem test_decode_wr3 : decode 0x03000000_00000001_00000064_00000000 = .command (.wr3 (.slot 0) 0x01 100) := by decide

/-- R137. -/
theorem test_decode_wr4 : decode 0x04000000_00000000_00000008_00000000 = .command (.wr4 (.slot 0) 0x00 8) := by decide

/-- R138. -/
theorem test_decode_wr5 : decode 0x05000000_000000F2_00000008_00000000 = .command (.wr5 (.slot 0) 0xF2 8) := by decide

/-- R139. -/
theorem test_decode_wr6 : decode 0x06000000_00000025_00000010_00000000 = .command (.wr6 (.slot 0) 0x25 16) := by decide

/-- R140. -/
theorem test_decode_wr7 : decode 0x07000000_000000FE_00000000_00000000 = .command (.wr7 (.slot 0) 0xFE 0) := by decide

/-- R141. -/
theorem test_decode_wr8 : decode 0x08000000_0000000F_00000000_00000000 = .command (.wr8 (.slot 0) 0x0F 0) := by decide

/-- R142. -/
theorem test_decode_wr9 : decode 0x09000000_00000010_00000000_00000000 = .command (.wr9 (.slot 0) 0x10 0) := by decide

/-- R143. -/
theorem test_decode_wr10 : decode 0x0A000000_0000002F_00000028_00000000 = .command (.wr10 (.slot 0) 0x2F 40) := by decide

/-- R144. -/
theorem test_decode_wr11 : decode 0x0B000000_00000001_00000000_00000000 = .command (.wr11 (.slot 0) 0x01 0) := by decide

/-- R145. -/
theorem test_decode_wr12 : decode 0x0C000000_00000000_00000000_00000000 = .command (.wr12 (.slot 0) 0x00 0) := by decide

/-- R146. -/
theorem test_decode_wr13 : decode 0x0D000000_0000000C_00000000_00000000 = .command (.wr13 (.slot 0) 0x0C 0) := by decide

/-- R147. -/
theorem test_decode_wr14 : decode 0x0E000000_00000055_00000004_00000000 = .command (.wr14 (.slot 0) 0x55 4) := by decide

/-- R148. -/
theorem test_decode_wr15 : decode 0x0F000000_000000AA_00000004_00000000 = .command (.wr15 (.slot 0) 0xAA 4) := by decide

/-- 43_synthesis_engine.md R220. -/
theorem test_decode_run : decode 0x10000100_00000020_00000000_00000000 = .command (.run (.slot 0) 32 true) := by decide

/-- 30_encoding.md R92: BUFV = 0, CHIP = 0xFF. -/
theorem test_decode_run_nobuf : decode 0x10FF0000_00000021_00000000_00000000 = .command (.run .null 33 false) := by decide

/-- 40_register_write.md R149. -/
theorem test_decode_cycleAdjust : decode 0x11000000_00000020_00000000_00000000 = .command (.cycleAdjust (.slot 0) 32) := by decide

/-- 41_lifecycle.md R173. -/
theorem test_decode_reset : decode 0x12000000_00000000_00000000_00000000 = .command (.reset (.slot 0) 0) := by decide

/-- 43_synthesis_engine.md R222. -/
theorem test_decode_bufSize : decode 0x13000000_00007D00_00000000_00000000 = .command (.bufSize (.slot 0) 32000) := by decide

/-- 41_lifecycle.md R174. -/
theorem test_decode_configure : decode 0x14000000_00000007_000F4240_0007A120 = .command (.configure (.slot 0) 7 1000000 500000) := by decide

/-- 41_lifecycle.md R175. -/
theorem test_decode_cleanup : decode 0x15000000_00000000_00000000_00000000 = .command (.cleanup (.slot 0)) := by decide

/-- 95_test_vectors.md program X. -/
theorem test_decode_create : decode 0x16010000_00000000_00000000_00000000 = .command (.create (.slot 1)) := by decide

/-- 45_mute_rate_clock.md R300, format M. -/
theorem test_decode_setActive : decode 0x17000000_FFFFFFFF_0000000A_00000000 = .command (.setActive (.slot 0) 0xFFFFFFFF 0x0000000A) := by decide

/-- 45_mute_rate_clock.md R301. -/
theorem test_decode_setRate : decode 0x18000000_0003D090_00000000_00000000 = .command (.setRate (.slot 0) 250000) := by decide

/-- 45_mute_rate_clock.md R302. -/
theorem test_decode_setEngine : decode 0x19FF0000_00000002_00000000_00000000 = .command (.setEngine .null 2) := by decide

/-- 42_volume_table.md R204. -/
theorem test_decode_setVolModel : decode 0x1AFF0000_00000009_00000000_00000000 = .command (.setVolModel .null 9) := by decide

/-- 41_lifecycle.md R170. -/
theorem test_decode_globalInit : decode 0x1BFF0000_00000000_00000000_00000000 = .command (.globalInit) := by decide

/-- 41_lifecycle.md R171. -/
theorem test_decode_globalShutdown : decode 0x1CFF0000_00000000_00000000_00000000 = .command (.globalShutdown) := by decide

/-- 95_test_vectors.md V13, the last slot number. -/
theorem test_decode_largest_stamp : decode 0x00FE0000_00000001_7FFFFFFF_00000000 = .command (.wr0 (.slot 254) 0x01 0x7FFFFFFF) := by decide

/-! ## Reserved frames -/

/-- 95_test_vectors.md E6. -/
theorem test_reserved_opcode_1D : decode 0x1D000000_00000000_00000000_00000000 = .reserved .opcode := by decide

/-- 30_encoding.md R97, the last reserved opcode. -/
theorem test_reserved_opcode_FF : decode 0xFFFF0000_00000000_00000000_00000000 = .reserved .opcode := by decide

/-- 95_test_vectors.md E7. -/
theorem test_reserved_bufv : decode 0x11000100_00000020_00000000_00000000 = .reserved .bufv := by decide

/-- 95_test_vectors.md E8. -/
theorem test_reserved_global_chip : decode 0x1B000000_00000000_00000000_00000000 = .reserved .globalChip := by decide

/-- 95_test_vectors.md V14. -/
theorem test_reserved_wide_stamp : decode 0x00000000_000000FF_80000000_00000000 = .reserved .mustBeZero := by decide

/-- 95_test_vectors.md V15. -/
theorem test_reserved_wide_value : decode 0x00000000_000001FF_00000000_00000000 = .reserved .mustBeZero := by decide

/-- 30_encoding.md R92: bits 103:96 of format Z. -/
theorem test_reserved_header_low : decode 0x15000001_00000000_00000000_00000000 = .reserved .mustBeZero := by decide

/-- 30_encoding.md R92: bits 111:105 of format N. -/
theorem test_reserved_header_high : decode 0x10000300_00000020_00000000_00000000 = .reserved .mustBeZero := by decide

/-- 30_encoding.md R92: A[31] of format N. -/
theorem test_reserved_run_span : decode 0x10000100_80000000_00000000_00000000 = .reserved .mustBeZero := by decide

/-- 30_encoding.md R92: B of format N. -/
theorem test_reserved_run_b : decode 0x10000100_00000020_00000001_00000000 = .reserved .mustBeZero := by decide

/-- 30_encoding.md R92: C of format M. -/
theorem test_reserved_setActive_c : decode 0x17000000_00000000_00000000_00000001 = .reserved .mustBeZero := by decide

/-- 30_encoding.md R92: B of format I. -/
theorem test_reserved_setRate_b : decode 0x18000000_00000000_00000001_00000000 = .reserved .mustBeZero := by decide

/-- 30_encoding.md R92: A of format Z. -/
theorem test_reserved_cleanup_a : decode 0x15000000_00000001_00000000_00000000 = .reserved .mustBeZero := by decide

/-! ## Small states -/

/-- The engine-private state after engine reset. -/
def e0 : EngineState := engineReset decisions

/-- A freshly created instance under P1 (95_test_vectors.md, opening). -/
def fresh : Chip := (Chip.fresh exampleP1 decisions design.model (Global.initial exampleP1 design) true).chip

/-- Slot 0 holds the given instance, slot 1 is Absent, `G` is as GLOBAL_INIT leaves it under P1. -/
def bed (c : Chip) : State :=
  { g := Global.initial exampleP1 design, chips := [⟨.live c, [], []⟩, Slot.absent], diag := [], cmds := [], resp := none
    draws := 0 }

/-- Not initialised, two Absent slots. -/
def cold : State :=
  { g := { Global.initial exampleP1 design with init := false }, chips := [Slot.absent, Slot.absent], diag := [], cmds := []
    resp := none, draws := 0 }

/-- A part of the instance in slot 0. -/
def part {α : Type} (s : State) (f : Chip → α) : Option α := (s.chip? (.slot 0)).map f

/-- The status and the result words of the last response. -/
def answer (s : State) : Option (Status × Word × Word × Word) := s.resp.map fun r => (r.status, r.res0, r.res1, r.res2)

/-- The PCM stream of slot 0 as numbers. -/
def pcmOf (s : State) : Option (List Int) := (s.slot? (.slot 0)).map fun sl => sl.pcm

/-- The state inside a next outcome; the given state otherwise. -/
def after (s : State) (r : Result) : State :=
  match r with
  | .next t => t
  | .fault _ => s
  | .refused _ => s

/-- The fresh instance at rate 250 000 with events queued. -/
def loaded (tone noise env : List Event) : Chip :=
  { fresh with sampleRateHz := 250000, queues := ⟨tone, noise, env⟩, poolUsed := tone.length + noise.length + env.length }

/-! ## Register writes and CYCLEADJUST (95_test_vectors.md 2.1, 40_register_write.md) -/

/-- R133: the byte goes to the shadow copy, not to the committed one. -/
theorem test_wr0_shadow : part (write exampleP1 design (.slot 0) 0 0xFE 0 (bed fresh)) (fun c => (c.sh.get 0, c.x.get 0)) =
    some (0xFE, 0xFF) := by decide

/-- R133: the event joins the tone queue with its full stamp. -/
theorem test_wr0_event : part (write exampleP1 design (.slot 0) 0 3 5 (bed (loaded [⟨0, 8, 1⟩] [] []))) (fun c => c.queues.tone) =
    some [⟨0, 8, 1⟩, ⟨5, 0, 3⟩] := by decide

/-- V5: stored unmasked. -/
theorem test_wr1_unmasked : part (write exampleP1 design (.slot 0) 1 0xFF 0 (bed fresh)) (fun c => (c.sh.get 1, c.queues.tone)) =
    some (0xFF, [⟨0, 1, 0xFF⟩]) := by decide

/-- R135. -/
theorem test_wr2_event : part (write exampleP1 design (.slot 0) 2 0x1C 100 (bed fresh)) (fun c => (c.queues, c.poolUsed)) =
    some (⟨[⟨100, 2, 0x1C⟩], [], []⟩, 1) := by decide

/-- R136. -/
theorem test_wr3_event : part (write exampleP1 design (.slot 0) 3 0x01 100 (bed fresh)) (fun c => (c.sh.get 3, c.queues)) =
    some (0x01, ⟨[⟨100, 3, 0x01⟩], [], []⟩) := by decide

/-- R137. -/
theorem test_wr4_event : part (write exampleP1 design (.slot 0) 4 0 8 (bed fresh)) (fun c => (c.sh.get 4, c.queues)) =
    some (0, ⟨[⟨8, 4, 0⟩], [], []⟩) := by decide

/-- R138: the register holds 0xF2. -/
theorem test_wr5_event : part (write exampleP1 design (.slot 0) 5 0xF2 8 (bed fresh)) (fun c => (c.sh.get 5, c.queues)) =
    some (0xF2, ⟨[⟨8, 5, 0xF2⟩], [], []⟩) := by decide

/-- V3: the noise queue. -/
theorem test_wr6_event : part (write exampleP1 design (.slot 0) 6 5 3 (bed fresh)) (fun c => (c.sh.get 6, c.queues)) =
    some (5, ⟨[], [⟨3, 6, 5⟩], []⟩) := by decide

/-- V8: dropped and counted, the shadow written all the same. -/
theorem test_wr6_dropped : part (write exampleP1 design (.slot 0) 6 1 30 (bed { fresh with poolUsed := 8 }))
    (fun c => (c.sh.get 6, c.queues.count, c.poolUsed, c.overflowCount)) = some (1, 0, 8, 1) := by decide

/-- V2: both queues. -/
theorem test_wr7_both : part (write exampleP1 design (.slot 0) 7 0xFE 0 (bed fresh)) (fun c => (c.queues, c.poolUsed)) =
    some (⟨[⟨0, 7, 0xFE⟩], [⟨0, 7, 0xFE⟩], []⟩, 2) := by decide

/-- V6: the tone copy is queued, the noise copy dropped. -/
theorem test_wr7_one_slot : part (write exampleP1 design (.slot 0) 7 0xF8 10 (bed { fresh with poolUsed := 7 }))
    (fun c => (c.queues, c.poolUsed, c.overflowCount)) = some (⟨[⟨10, 7, 0xF8⟩], [], []⟩, 8, 1) := by decide

/-- V7: both copies dropped, status OK. -/
theorem test_wr7_dropped :
    let t := write exampleP1 design (.slot 0) 7 0xC0 28 (bed { fresh with poolUsed := 8 })
    part t (fun c => (c.sh.get 7, c.queues.count, c.overflowCount)) = some (0xC0, 0, 2) ∧
      answer t = some (.ok, 0, 0, 0) := by decide

/-- V1: the second of two writes of one stamp comes second. -/
theorem test_wr8_fifo : part (write exampleP1 design (.slot 0) 8 2 0 (bed (loaded [⟨0, 8, 1⟩] [] [])))
    (fun c => (c.sh.get 8, c.queues.tone, c.poolUsed)) = some (2, [⟨0, 8, 1⟩, ⟨0, 8, 2⟩], 2) := by decide

/-- R142. -/
theorem test_wr9_event : part (write exampleP1 design (.slot 0) 9 0x10 0 (bed fresh)) (fun c => (c.sh.get 9, c.queues)) =
    some (0x10, ⟨[⟨0, 9, 0x10⟩], [], []⟩) := by decide

/-- R143: the register holds 0x2F. -/
theorem test_wr10_event : part (write exampleP1 design (.slot 0) 10 0x2F 40 (bed fresh)) (fun c => (c.sh.get 10, c.queues)) =
    some (0x2F, ⟨[⟨40, 10, 0x2F⟩], [], []⟩) := by decide

/-- V3: the envelope queue. -/
theorem test_wr11_event : part (write exampleP1 design (.slot 0) 11 0x10 4 (bed (loaded [] [] [⟨3, 13, 0x0E⟩])))
    (fun c => (c.sh.get 11, c.queues.env)) = some (0x10, [⟨3, 13, 0x0E⟩, ⟨4, 11, 0x10⟩]) := by decide

/-- R145. -/
theorem test_wr12_event : part (write exampleP1 design (.slot 0) 12 0 0 (bed fresh)) (fun c => (c.sh.get 12, c.queues)) =
    some (0, ⟨[], [], [⟨0, 12, 0⟩]⟩) := by decide

/-- R146: the envelope queue, and no restart at the write itself. -/
theorem test_wr13_event : part (write exampleP1 design (.slot 0) 13 0x0C 0 (bed fresh))
    (fun c => (c.sh.get 13, c.queues, c.binding)) =
    some (0x0C, ⟨[], [], [⟨0, 13, 0x0C⟩]⟩, .configured e0) := by decide

/-- V4: no queue, no register, no counter, status OK. -/
theorem test_wr14_nothing : part (after (bed fresh) (exec (.wr14 (.slot 0) 0xAA 0) (bed fresh))) id = some fresh ∧
    answer (after (bed fresh) (exec (.wr14 (.slot 0) 0xAA 0) (bed fresh))) = some (.ok, 0, 0, 0) := by decide

/-- V4. -/
theorem test_wr15_nothing : part (after (bed fresh) (exec (.wr15 (.slot 0) 0x55 0) (bed fresh))) id = some fresh ∧
    answer (after (bed fresh) (exec (.wr15 (.slot 0) 0x55 0) (bed fresh))) = some (.ok, 0, 0, 0) := by decide

/-- E14: before GLOBAL_INIT every slot is Absent. -/
theorem test_wr0_before_init : answer (after cold (exec (.wr0 (.slot 0) 0xFF 0) cold)) = some (.eInval, 0, 0, 0) := by
  decide

/-- V9: the survivor's stamp goes from 40 to 8 and keeps its slot. -/
theorem test_cycleAdjust_survivor :
    let s := bed { loaded [⟨40, 10, 0x0F⟩] [] [] with poolUsed := 5 }
    part (after s (exec (.cycleAdjust (.slot 0) 32) s)) (fun c => (c.queues.tone, c.poolUsed)) =
      some ([⟨8, 10, 0x0F⟩], 1) := by decide

/-- V11: the host obligation broken, a stamp goes below zero. -/
theorem test_cycleAdjust_negative :
    let s := bed (loaded [⟨8, 10, 0x0F⟩] [] [])
    part (after s (exec (.cycleAdjust (.slot 0) 32) s)) (fun c => c.queues.tone) = some [⟨-24, 10, 0x0F⟩] := by decide

/-! ## RUN and BUFSIZE (95_test_vectors.md 2.4, section 3) -/

/-- V36: an event exactly on a tick. -/
theorem test_run_on_tick : pcmOf (run exampleP1 design (.slot 0) 32 true (bed (loaded [⟨8, 10, 0x0F⟩] [] []))) =
    some [0, 3100, 3100, 3100] := by decide

/-- V37: an event between two ticks is applied at the later one. -/
theorem test_run_between_ticks : pcmOf (run exampleP1 design (.slot 0) 32 true (bed (loaded [⟨9, 10, 0x0F⟩] [] []))) =
    some [0, 0, 3100, 3100] := by decide

/-- V35: an event after the last tick is committed by the tail and not heard. -/
theorem test_run_tail :
    let t := run exampleP1 design (.slot 0) 32 true (bed (loaded [⟨30, 10, 0x0F⟩] [] []))
    pcmOf t = some [0, 0, 0, 0] ∧ part t (fun c => (c.x.get 10, c.queues.count, c.poolUsed)) = some (0x0F, 0, 1) := by
  decide

/-- Program E: an event stamped beyond the block stays. -/
theorem test_run_beyond_block : part (run exampleP1 design (.slot 0) 32 true (bed (loaded [⟨40, 10, 0x0F⟩] [] [])))
    (fun c => (c.x.get 10, c.queues.tone)) = some (0, [⟨40, 10, 0x0F⟩]) := by decide

/-- V41: DebugDump's records, tone before noise before envelope among equal stamps, and the committed registers. -/
theorem test_run_dump :
    let t := run exampleP1 design (.slot 0) 32 true (bed
      { loaded [⟨0, 7, 0xFE⟩, ⟨0, 8, 0x0F⟩] [⟨0, 7, 0xFE⟩] [⟨4, 11, 1⟩] with engineKind := .debugDump })
    (t.slot? (.slot 0)).map (fun sl => sl.dump) = some
        [0x00000000_000007FE, 0x00000000_0000080F, 0x00000000_000047FE, 0x00000004_00008B01] ∧
      part t (fun c => c.x) = some
        #v[0xFF, 0x0F, 0xFF, 0x0F, 0xFF, 0x0F, 0x1F, 0xFE, 0x0F, 0x00, 0x00, 0x01, 0xFF, 0x0A] := by decide

/-- Program M, second block: channel A muted, tone period 1, B steady at level 17. -/
theorem test_run_muted :
    let c := { loaded [] [] [] with
      x := #v[0x01, 0x00, 0xFF, 0x0F, 0xFF, 0x0F, 0x1F, 0xFE, 0x0F, 0x08, 0x00, 0xFF, 0xFF, 0x0A]
      activeMask := 6
      muteRep := 0x7FE0 }
    pcmOf (run exampleP1 design (.slot 0) 32 true (bed c)) = some [1700, 1700, 1700, 1700] := by decide

/-- Program M, first block: the packed index alternates. -/
theorem test_run_tone :
    let c := { loaded [] [] [] with
      x := #v[0x01, 0x00, 0xFF, 0x0F, 0xFF, 0x0F, 0x1F, 0xFE, 0x0F, 0x08, 0x00, 0xFF, 0xFF, 0x0A] }
    pcmOf (run exampleP1 design (.slot 0) 32 true (bed c)) = some [4800, 1700, 4800, 1700] := by decide

/-- V38: Pulse decimation at 187 500 takes the indices 0, 1, 2, 4, 5, 6 of eight samples. -/
theorem test_pulse_decimation : (pulseOut [3100, 0, 3100, 0, 3100, 0, 3100, 0] 8 6) =
    [3100, 0, 3100, 3100, 0, 3100] := by decide

/-- V40: a span of zero runs nothing and the binding becomes Running. -/
theorem test_run_zero :
    let t := run exampleP1 design (.slot 0) 0 true (bed fresh)
    answer t = some (.ok, 0, 0, 0) ∧ pcmOf t = some [] ∧ part t (fun c => c.binding) = some (.running e0) := by
  decide

/-- E4, E3, E11, E12: the order of the checks. -/
theorem test_run_check_order :
    let u := bed { fresh with binding := .unconfigured }
    answer (after u (exec (.run (.slot 0) 33 true) u)) = some (.eInval, 0, 0, 0) ∧
      answer (after u (exec (.run (.slot 0) 32 false) u)) = some (.eInval, 0, 0, 0) ∧
      answer (after u (exec (.run (.slot 0) 33 false) u)) = some (.eInval, 0, 0, 0) ∧
      answer (after u (exec (.run (.slot 0) 32 true) u)) = some (.eState, 0, 0, 0) := by decide

/-- V31, V34: 705 samples for 32 000 cycles at 44 100; no alignment check. -/
theorem test_bufSize_counts :
    answer (after (bed fresh) (exec (.bufSize (.slot 0) 32000) (bed fresh))) = some (.ok, 705, 0, 0) ∧
      answer (after (bed fresh) (exec (.bufSize (.slot 0) 33) (bed (loaded [] [] [])))) = some (.ok, 4, 0, 0) := by
  decide

/-! ## Generators and mixer (95_test_vectors.md 2.5) -/

/-- The first shifts of the noise register. -/
theorem test_lfsr_shifts : ([0x00001, 0x10000, 0x00008, 0x10004, 0x04001, 0x12000] : List (BitVec 17)).map shiftLfsr =
    [0x10000, 0x08000, 0x10004, 0x08002, 0x12000, 0x09000] := by decide

/-- A period that drops below the count flips at the next step. -/
theorem test_tone_compare : stepTone 2 ⟨4, true⟩ = ⟨0, false⟩ := by decide

/-- ShapeLevel at p = 0, 1, 30, 31, 32, 33, 63, 64, 65, 95, 96 for shapes 0, 4, 8, 10, 11, 12, 13 and 14. -/
theorem test_shape_levels :
    ([0, 4, 8, 10, 11, 12, 13, 14] : List (BitVec 4)).map
        (fun sh => [0, 1, 30, 31, 32, 33, 63, 64, 65, 95, 96].map (shapeLevel bitFields sh)) =
      [[31, 30, 1, 0, 0, 0, 0, 0, 0, 0, 0], [0, 1, 30, 31, 0, 0, 0, 0, 0, 0, 0],
        [31, 30, 1, 0, 31, 30, 0, 31, 30, 0, 31], [31, 30, 1, 0, 0, 1, 31, 31, 30, 0, 0],
        [31, 30, 1, 0, 31, 31, 31, 31, 31, 31, 31], [0, 1, 30, 31, 0, 1, 31, 0, 1, 31, 0],
        [0, 1, 30, 31, 31, 31, 31, 31, 31, 31, 31], [0, 1, 30, 31, 31, 30, 0, 0, 1, 31, 31]] := by decide

/-- LevelFixed. -/
theorem test_level_fixed : ([0, 1, 7, 8, 15] : List (BitVec 4)).map levelFixed = [0, 3, 15, 17, 31] := by decide

/-- Tone A high, mixer FE, VOLA 0F, VOLB 08: packed 0x23F; tone A low: 0x220. -/
theorem test_packed_levels :
    let x : RegFile := resetReg.set 7 0xFE |>.set 8 0x0F |>.set 9 0x08
    packedLevels decisions x e0 = 0x23F ∧
      packedLevels decisions x { e0 with tone := { e0.tone with a := ⟨0, true⟩ } } = 0x220 := by decide

/-- Volume byte 0x1F: the envelope, the low bits ignored; 0xEF: bits 7:5 ignored. -/
theorem test_level_select :
    channelLevel decisions (resetReg.set 8 0x1F) e0 .a = 31 ∧
      channelLevel decisions ((resetReg.set 8 0x1F).set 13 0x0C) { e0 with envPos := 3 } .a = 3 ∧
      channelLevel decisions (resetReg.set 8 0xEF) e0 .a = 31 := by decide

/-! ## The volume table (95_test_vectors.md 2.3) -/

/-- Linear entries. -/
theorem test_linear_entries :
    volEntry exampleP1 decisions .linear 9300 3 5 7 = 1500 ∧ volEntry exampleP1 decisions .linear 9300 15 15 15 = 4500 ∧
      volEntry exampleP1 decisions .linear 9300 31 31 30 = 9200 ∧ volEntry exampleP1 decisions .linear 9300 31 31 31 = 9300 := by decide

/-- Nonlinear entries with the example curve. -/
theorem test_nonlinear_entries :
    volEntry exampleP1 decisions .nonlinear 9300 1 0 0 = 3 ∧ volEntry exampleP1 decisions .nonlinear 9300 15 0 0 = 725 ∧
      volEntry exampleP1 decisions .nonlinear 9300 3 5 7 = 267 ∧ volEntry exampleP1 decisions .nonlinear 9300 31 31 30 = 9103 := by decide

/-- Table reads: A in bits 4:0, B in 9:5, C in 14:10. -/
theorem test_table_reads :
    let t := buildVolumeTable exampleP1 decisions .linear 9300
    VolTable.read decisions t 0x001F = 3100 ∧ VolTable.read decisions t 0x1CA3 = 1500 ∧ VolTable.read decisions t 0x7BFF = 9200 := by decide

/-- SET_VOLMODEL null, NONLINEAR returns 1 and rebuilds. -/
theorem test_setVolModel_nonlinear :
    let t := setVolModel exampleP1 design .null 1 (bed fresh)
    answer t = some (.ok, 1, 0, 0) ∧ t.g.volModel = .nonlinear ∧ VolTable.read decisions t.g.volTable 0x000F = 725 := by decide

/-- SET_VOLMODEL null, 9 returns the current id and appends a notice. -/
theorem test_setVolModel_unknown :
    let t := setVolModel exampleP1 design .null 9 (bed fresh)
    answer t = some (.ok, 2, 0, 0) ∧ t.diag = [.volModel 9] ∧ t.g.volModel = .linear := by decide

/-! ## Lifecycle (95_test_vectors.md 2.2) -/

/-- V20. -/
theorem test_globalInit :
    let t := globalInit exampleP1 design cold
    answer t = some (.ok, 0, 0, 0) ∧ t.g.init = true ∧ VolTable.read decisions t.g.volTable 0x7FFF = 9300 ∧
      (t.g.defEngine, t.g.defClock, t.g.defRate, t.g.defActive) = (.pulse, 2000000, 44100, 7) := by decide

/-- V21. -/
theorem test_globalInit_twice : answer (after (bed fresh) (exec .globalInit (bed fresh))) = some (.eState, 0, 0, 0) := by
  decide

/-- V29b: E_STATE while an instance is Live. -/
theorem test_globalShutdown_live :
    answer (after (bed fresh) (exec .globalShutdown (bed fresh))) = some (.eState, 0, 0, 0) := by decide

/-- V29b: OK once none is. -/
theorem test_globalShutdown :
    let s := { bed fresh with chips := [⟨.destroyed, [], []⟩, Slot.absent] }
    answer (after s (exec .globalShutdown s)) = some (.ok, 0, 0, 0) ∧
      (after s (exec .globalShutdown s)).g.init = false ∧
      (after s (exec .globalShutdown s)).chips.map (fun sl => sl.life) = [.absent, .absent] := by decide

/-- V22: CREATE c1 under the defaults. -/
theorem test_create :
    let t := create exampleP1 design (.slot 1) (bed fresh)
    answer t = some (.ok, 1, 2000000, 44100) ∧
      (t.chip? (.slot 1)).map (fun c => (c.x, c.binding)) = some (resetReg, .configured e0) := by decide

/-- V23, V24, E13: a Live slot, a number that names no slot, not initialised. -/
theorem test_create_errors :
    answer (create exampleP1 design (.slot 0) (bed fresh)) = some (.eState, 0, 0, 0) ∧
      answer (create exampleP1 design (.slot 2) (bed fresh)) = some (.eInval, 0, 0, 0) ∧
      answer (create exampleP1 design (.slot 0) cold) = some (.eState, 0, 0, 0) := by decide

/-- V25: RESET after a run; rate, engine and mask stay. -/
theorem test_reset :
    let s := bed { loaded [⟨70, 8, 1⟩] [] [] with
      x := resetReg.set 8 7, sh := resetReg.set 9 7, overflowCount := 3, activeMask := 2, engineKind := .debugDump
      binding := .running { e0 with lfsr := 0x04800, envPos := 4 } }
    part (after s (exec (.reset (.slot 0) 0) s)) id = some
      { fresh with sampleRateHz := 250000, activeMask := 2, engineKind := .debugDump } := by decide

/-- E9: RESET null. -/
theorem test_reset_null : answer (after (bed fresh) (exec (.reset .null 0) (bed fresh))) = some (.eInval, 0, 0, 0) := by
  decide

/-- V26: registers and queues kept, the engine renewed. -/
theorem test_configure :
    let t := configure exampleP1 design (.slot 0) 2 2000000 48000 (bed { loaded [⟨70, 8, 1⟩] [] [] with
      x := resetReg.set 8 0x0F, binding := .running { e0 with lfsr := 0x04800 } })
    answer t = some (.ok, 2, 2000000, 48000) ∧
      part t (fun c => (c.x.get 8, c.queues.tone, c.binding)) = some (0x0F, [⟨70, 8, 1⟩], .configured e0) := by
  decide

/-- V27: coerced with two notices. -/
theorem test_configure_coerces :
    let t := configure exampleP1 design (.slot 0) 7 1000000 500000 (bed fresh)
    answer t = some (.ok, 1, 2000000, 250000) ∧ t.diag = [.engine 7, .clock 1000000] := by decide

/-- V28: setup fails for this call. -/
theorem test_configure_setup_fails :
    let t := configure { exampleP1 with setupOk := fun _ _ _ => false } design (.slot 0) 1 2000000 44100 (bed fresh)
    answer t = some (.eSetup, 1, 2000000, 44100) ∧ part t (fun c => c.binding) = some .unconfigured := by decide

/-- V29: no notice for a count of 0. -/
theorem test_cleanup :
    let t := after cold (exec (.cleanup (.slot 0)) (bed fresh))
    answer t = some (.ok, 0, 0, 0) ∧ t.diag = [] ∧ t.chips.map (fun sl => sl.life) = [.destroyed, .absent] := by decide

/-- Program C: the count is returned and reported. -/
theorem test_cleanup_reports :
    let t := after cold (exec (.cleanup (.slot 0)) (bed { fresh with overflowCount := 3 }))
    answer t = some (.ok, 3, 0, 0) ∧ t.diag = [.overflow 0 3] := by decide

/-! ## Mute, rate, engine (95_test_vectors.md 2.6) -/

/-- 7 → 6, then set wins over clear, then the mask from 32-bit operands. -/
theorem test_setActive :
    part (after cold (exec (.setActive (.slot 0) 1 0) (bed fresh))) (fun c => (c.activeMask, c.muteRep)) =
        some (6, 0x7FE0) ∧
      part (after cold (exec (.setActive (.slot 0) 1 1) (bed fresh))) (fun c => c.activeMask) = some 7 ∧
      part (after cold (exec (.setActive (.slot 0) 0xFFFFFFFF 0x0000000A) (bed fresh))) (fun c => c.activeMask) =
        some 2 := by decide

/-- SETACTIVE null, 4, 0 from 7 gives 3 and leaves the instance's mask. -/
theorem test_setActive_default :
    let t := after cold (exec (.setActive .null 4 0) (bed fresh))
    answer t = some (.ok, 3, 0, 0) ∧ t.g.defActive = 3 ∧ part t (fun c => c.activeMask) = some 7 := by decide

/-- Clamped at both ends, or taken as it is. -/
theorem test_setRate :
    answer (setRate exampleP1 design (.slot 0) 0 (bed fresh)) = some (.ok, 8000, 0, 0) ∧
      answer (setRate exampleP1 design (.slot 0) 1000000000 (bed fresh)) = some (.ok, 250000, 0, 0) ∧
      answer (setRate exampleP1 design (.slot 0) 48000 (bed fresh)) = some (.ok, 48000, 0, 0) := by decide

/-- SETRATE null. -/
theorem test_setRate_null : answer (after cold (exec (.setRate .null 48000) (bed fresh))) = some (.eInval, 0, 0, 0) := by
  decide

/-- SET_ENGINE c0, DUMP, then c0, 42 from the fresh instance. -/
theorem test_setEngine :
    answer (setEngine exampleP1 design (.slot 0) 3 (bed fresh)) = some (.ok, 3, 0, 0) ∧
      answer (setEngine exampleP1 design (.slot 0) 42 (bed { fresh with engineKind := .debugDump })) = some (.ok, 1, 0, 0) ∧
      (setEngine exampleP1 design (.slot 0) 42 (bed fresh)).diag = [.engine 42] := by decide

/-- A setup that fails: E_SETUP, the id of the engine asked for in RES0, Unconfigured (45_mute_rate_clock.md R302,
60_exceptions.md R325). -/
theorem test_setEngine_setup_fails :
    let t := setEngine { exampleP1 with setupOk := fun _ _ _ => false } design (.slot 0) 3 (bed fresh)
    answer t = some (.eSetup, 3, 0, 0) ∧ part t (fun c => (c.engineKind, c.binding)) = some (.debugDump, .unconfigured) := by
  decide

/-- SET_ENGINE null, STEP returns 2 and changes the default. -/
theorem test_setEngine_default :
    let t := setEngine exampleP1 design .null 2 (bed fresh)
    answer t = some (.ok, 2, 0, 0) ∧ t.g.defEngine = .stepBandlimited := by decide

/-! ## The step, the assembler and the host's two entries -/

/-- A reserved frame is answered and taken (95_test_vectors.md E6). -/
theorem test_step_reserved :
    let t := after cold (step { bed fresh with cmds := [0x1D000000_00000000_00000000_00000000, 5] })
    answer t = some (.eInval, 0, 0, 0) ∧ t.cmds = [5] := by decide

/-- RESET null by its frame (95_test_vectors.md E9). -/
theorem test_step_command :
    answer (after cold (step { bed fresh with cmds := [0x12FF0000_00000000_00000000_00000000] })) =
      some (.eInval, 0, 0, 0) := by decide

/-- The first step after reset runs the frame that was put on the port: GLOBAL_INIT. -/
theorem test_first_step :
    (after cold (step (State.reset.withFetchWord 128 0x1BFF0000_00000000_00000000_00000000))).g.init = true := by
  rfl

/-- The opcode table's bits go to the decoder as one 128-bit word. -/
theorem test_table_word :
    decodeTableWord 128 0x02000000_0000001C_00000064_00000000 = some (.wr2 (.slot 0) 0x1C 100) ∧
      decodeTableWord 128 0x1D000000_00000000_00000000_00000000 = none := by decide

/-- The text of a command (30_encoding.md R100). -/
theorem test_text : instrText (.wr2 (.slot 0) 0x1C 100) = "WR2 c0, 28, 100" ∧
    instrText (.run .null 33 false) = "RUN null, 33, NOBUF" ∧ instrText .globalInit = "GLOBAL_INIT" := by
  decide

/-- WTP c0, B, 0x11C at 100 (30_encoding.md R101). -/
theorem test_wtp : pseudoWtp (.slot 0) .b 0x11C 100 = [.wr2 (.slot 0) 0x1C 100, .wr3 (.slot 0) 0x01 100] := by decide

/-- RUN_BLOCK c0, 32 runs and rebases; on a failed RUN it does not rebase (30_encoding.md R101). -/
theorem test_run_block_fails :
    let s := bed (loaded [⟨40, 10, 0x0F⟩] [] [])
    part (after s (runBlock (.slot 0) 33 s)) (fun c => c.queues.tone) = some [⟨40, 10, 0x0F⟩] ∧
      answer (after s (runBlock (.slot 0) 33 s)) = some (.eInval, 0, 0, 0) := by decide

/-! ## Witnesses: for every obligation with hypotheses, operands and a state that meet them together -/

/-- Slot 0 of `bed c`. -/
def slot0 (c : Chip) : Slot := ⟨.live c, [], []⟩

theorem bed_live (c : Chip) : (bed c).LiveAt 0 (slot0 c) c := ⟨rfl, rfl⟩

/-- The machine's own parameters: slot 0 Live, the other slots Absent, a RESET of slot 0 on the port. -/
def sound : State :=
  { g := Global.initial hw design
    chips :=
      slot0 (Chip.fresh hw decisions design.model (Global.initial hw design) true).chip ::
        List.replicate (hw.nchip - 1) Slot.absent
    diag := [], cmds := [0x12000000_00000000_00000000_00000000], resp := none, draws := 0 }

/-- Events on both sides of a block of 32 cycles, each queue in stamp order. -/
def straddling : Chip := loaded [⟨0, 8, 1⟩, ⟨31, 8, 2⟩, ⟨32, 8, 3⟩] [⟨32, 6, 1⟩] [⟨31, 13, 8⟩]

theorem straddling_ordered : straddling.queues.Ordered := by
  unfold Queues.Ordered stampsOrdered
  decide

/-- Three mixer writes, each with its copies in both queues. -/
def mixed : Chip :=
  loaded [⟨0, 7, 1⟩, ⟨31, 7, 2⟩, ⟨32, 7, 3⟩] [⟨0, 7, 1⟩, ⟨31, 7, 2⟩, ⟨32, 7, 3⟩] []

theorem mixed_ordered : mixed.queues.Ordered := by
  unfold Queues.Ordered stampsOrdered
  decide

/-- Envelope restarts stamped at tick 0, at tick 1 and behind the last tick of a block of 32 cycles. -/
def restarting : Chip := loaded [] [] [⟨0, 13, 8⟩, ⟨8, 13, 9⟩, ⟨25, 13, 10⟩]

theorem restarting_ordered : restarting.queues.Ordered := by
  unfold Queues.Ordered stampsOrdered
  decide

theorem global_initial_inv : (Global.initial hw design).Inv hw :=
  ⟨rfl, hw.rateMin_le_default, hw.rateDefault_le_max, rfl⟩

theorem fresh_inv : (Chip.fresh hw decisions design.model (Global.initial hw design) true).chip.Inv hw where
  count_le_poolUsed := Nat.zero_le _
  poolUsed_le := Nat.zero_le _
  muteRep_eq := rfl
  clock_eq := rfl
  rate_ge := (hw.rateAdjust_range _ _ hw.rateMin_le_default hw.rateDefault_le_max).1
  rate_le := (hw.rateAdjust_range _ _ hw.rateMin_le_default hw.rateDefault_le_max).2
  engine := fun e h => by
    cases h
    exact (by decide : (1 : BitVec 17) ≠ 0)
  overflow_lt := by decide

theorem sound_inv : sound.Inv where
  slots := by
    have := hw.nchip_pos
    simp only [sound, List.length_cons, List.length_replicate]
    omega
  global := fun _ => global_initial_inv
  live := fun sl hsl c hc => by
    rcases List.mem_cons.mp hsl with rfl | h
    · cases hc
      exact ⟨fresh_inv, rfl⟩
    · rw [List.eq_of_mem_replicate h] at hc
      cases hc
  samples := fun sl hsl v hv => by
    rcases List.mem_cons.mp hsl with rfl | h
    · cases hv
    · rw [List.eq_of_mem_replicate h] at hv
      cases hv

theorem witness_DecodeOfEncode : (Instr.wr13 (.slot 254) 0xFF (2 ^ 31 - 1)).wf = true := by decide

theorem witness_EncodeOfDecode :
    decode 0x10000100_7FFFFFFF_00000000_00000000 = .command (.run (.slot 0) (2 ^ 31 - 1) true) := by decide

/-- One frame for each clause, at the edge of its field. -/
theorem witness_ReservedFrames : ({ cold with cmds := [0x1D000000_00000000_00000000_00000000] } : State).cmds =
      0x1D000000_00000000_00000000_00000000 :: [] ∧
    reservedByRule (Frame.ofBits 0x1D000000_00000000_00000000_00000000) ∧
    reservedByRule (Frame.ofBits 0x14000200_00000000_00000000_00000000) ∧
    reservedByRule (Frame.ofBits 0x14000080_00000000_00000000_00000000) ∧
    reservedByRule (Frame.ofBits 0x0F000000_00000100_00000000_00000000) ∧
    reservedByRule (Frame.ofBits 0x13000000_80000000_00000000_00000000) ∧
    reservedByRule (Frame.ofBits 0x1CFF0000_00000001_00000000_00000000) ∧
    reservedByRule (Frame.ofBits 0x17000000_00000000_00000000_80000000) ∧
    reservedByRule (Frame.ofBits 0x1A000000_00000000_00000001_00000000) ∧
    reservedByRule (Frame.ofBits 0x14000100_00000000_00000000_00000000) ∧
    reservedByRule (Frame.ofBits 0x1CFE0000_00000000_00000000_00000000) ∧
    ¬ reservedByRule (Frame.ofBits 0x1CFF0000_00000000_00000000_00000000) := by
  refine ⟨rfl, ?_, ?_, ?_, ?_, ?_, ?_, ?_, ?_, ?_, ?_, ?_⟩ <;> simp only [reservedByRule] <;> decide

theorem witness_StepRunsDecodedCommand :
    sound.cmds = 0x12000000_00000000_00000000_00000000 :: [] ∧
      decode 0x12000000_00000000_00000000_00000000 = .command (.reset (.slot 0) 0) ∧ cold.cmds = [] := by decide

theorem witness_StepKeepsInv : sound.Inv ∧ ∃ t, step sound = .next t := ⟨sound_inv, _, rfl⟩

/-- One error of each status. -/
theorem witness_ErrorsChangeNothing :
    (∃ t, exec (.reset .null 0) cold = .next t ∧ t.resp = some ⟨.eInval, 0, 0, 0⟩) ∧
      ∃ t, exec .globalShutdown cold = .next t ∧ t.resp = some ⟨.eState, 0, 0, 0⟩ := ⟨⟨_, rfl, rfl⟩, _, rfl, rfl⟩

/-- Both cases of CREATE, and a command of each other clause. -/
theorem witness_UninitialisedCommandsFail : cold.g.init = false ∧ cold.anyLive = false ∧
    (cold.slot? (.slot 1)).isSome = true ∧ (cold.slot? (.slot 2)).isSome = false ∧
    ∀ i ∈ [Instr.create (.slot 1), .create (.slot 2), .globalShutdown, .setActive .null 0 0, .setEngine .null 0,
      .setVolModel .null 0, .run (.slot 0) 32 true], i ≠ .globalInit := by decide

theorem witness_DeadHandleIsInvalid :
    handleOf (.setActive (.slot 1) 1 0) = some (.slot 1) ∧ (bed fresh).chip? (.slot 1) = none ∧
      Instr.setActive (.slot 1) 1 0 ≠ .create (.slot 1) ∧ ChipSel.slot 1 ≠ .null ∧
      handleOf (.reset .null 0) = some .null ∧ (bed fresh).chip? .null = none ∧
      Instr.reset .null 0 ≠ .create .null ∧ (∀ a b, Instr.reset .null 0 ≠ .setActive .null a b) ∧
      (∀ a, Instr.reset .null 0 ≠ .setEngine .null a) ∧ ∀ a, Instr.reset .null 0 ≠ .setVolModel .null a := by
  refine ⟨rfl, rfl, ?_, ?_, rfl, rfl, ?_, ?_, ?_, ?_⟩ <;> intros <;> intro h <;> cases h

theorem witness_OtherSlotsUntouched :
    handleOf (.reset (.slot 0) 0) = some (.slot 0) ∧ ∃ t, exec (.reset (.slot 0) 0) (bed fresh) = .next t := ⟨rfl, _, rfl⟩

/-- WR0 for the committed registers, RUN for the shadow registers. -/
theorem witness_RegisterWriters :
    (∃ t c', exec (.wr0 (.slot 0) 1 0) (bed fresh) = .next t ∧ (bed fresh).chip? (.slot 0) = some fresh ∧
      t.chip? (.slot 0) = some c' ∧ (∀ m b, Instr.wr0 (.slot 0) 1 0 ≠ .run (.slot 0) m b) ∧
      ∀ m, Instr.wr0 (.slot 0) 1 0 ≠ .reset (.slot 0) m) ∧
    ∃ t c', exec (.run (.slot 0) 32 true) (bed fresh) = .next t ∧ t.chip? (.slot 0) = some c' ∧
      (∀ r v m, Instr.run (.slot 0) 32 true ≠ .wr r (.slot 0) v m) ∧
      ∀ m, Instr.run (.slot 0) 32 true ≠ .reset (.slot 0) m := by
  refine ⟨⟨_, _, rfl, rfl, rfl, ?_, ?_⟩, _, _, rfl, rfl, ?_, ?_⟩
  · intro m b h
    cases h
  · intro m h
    cases h
  · intro r v m h
    unfold Instr.wr at h
    split at h <;> cases h
  · intro m h
    cases h

/-- RUN for the first clause, BUFSIZE for the second. -/
theorem witness_StreamsAreAppendOnly :
    (∃ t sl', exec (.run (.slot 0) 32 true) (bed fresh) = .next t ∧ (bed fresh).slot? (.slot 0) = some (slot0 fresh) ∧
      t.slot? (.slot 0) = some sl' ∧ Instr.run (.slot 0) 32 true ≠ .create (.slot 0)) ∧
    ∃ t sl', exec (.bufSize (.slot 0) 32) (bed fresh) = .next t ∧ t.slot? (.slot 0) = some sl' ∧
      Instr.bufSize (.slot 0) 32 ≠ .create (.slot 0) ∧ ∀ m b, Instr.bufSize (.slot 0) 32 ≠ .run (.slot 0) m b := by
  refine ⟨⟨_, _, rfl, rfl, rfl, ?_⟩, _, _, rfl, rfl, ?_, ?_⟩ <;> intros <;> intro h <;> cases h

theorem witness_VolumeTableWriters : (∃ t, exec (.setActive .null 4 0) (bed fresh) = .next t) ∧
    Instr.setActive .null 4 0 ≠ .globalInit ∧ Instr.setActive .null 4 0 ≠ .globalShutdown ∧
    ∀ sel id, Instr.setActive .null 4 0 ≠ .setVolModel sel id := by
  refine ⟨⟨_, rfl⟩, ?_, ?_, ?_⟩ <;> intros <;> intro h <;> cases h

/-- The ends of each group of registers, with a free slot. -/
theorem witness_WriteQueuesOneEvent :
    ((0 : Reg).val = (0 : PortIndex).val ∧ (5 : Reg).val = (5 : PortIndex).val ∧ (6 : Reg).val = (6 : PortIndex).val ∧
      (8 : Reg).val = (8 : PortIndex).val ∧ (10 : Reg).val = (10 : PortIndex).val ∧
      (11 : Reg).val = (11 : PortIndex).val ∧ (13 : Reg).val = (13 : PortIndex).val) ∧
    (∀ r ∈ ([0, 5, 8, 10] : List PortIndex), r ∈ ([0, 1, 2, 3, 4, 5, 8, 9, 10] : List PortIndex)) ∧
    (∀ r ∈ ([11, 13] : List PortIndex), r ∈ ([11, 12, 13] : List PortIndex)) ∧
    (bed fresh).LiveAt 0 (slot0 fresh) fresh ∧ fresh.poolUsed < hw.poolCap :=
  ⟨⟨rfl, rfl, rfl, rfl, rfl, rfl, rfl⟩, by simp, by simp, bed_live fresh, hw.poolCap_pos⟩

/-- The arena with one free slot and with none (two free slots need POOL_CAP at least 2: `test_wr7_both` shows that case
under P1). -/
theorem witness_MixerWriteQueuesTwoEvents :
    let one := { fresh with poolUsed := hw.poolCap - 1 }
    let full := { fresh with poolUsed := hw.poolCap }
    (bed one).LiveAt 0 (slot0 one) one ∧ one.poolUsed + 1 = hw.poolCap ∧ ¬ one.poolUsed + 2 ≤ hw.poolCap ∧
      (bed full).LiveAt 0 (slot0 full) full ∧ ¬ full.poolUsed + 2 ≤ hw.poolCap ∧ full.poolUsed + 1 ≠ hw.poolCap := by
  have := hw.poolCap_pos
  refine ⟨bed_live _, ?_, ?_, bed_live _, ?_, ?_⟩ <;> simp only <;> omega

theorem witness_WriteToFullArenaDrops :
    let full := { fresh with poolUsed := hw.poolCap, overflowCount := 0xFFFFFFFF }
    (13 : Reg).val = (13 : PortIndex).val ∧ (13 : PortIndex) ≠ 7 ∧ (bed full).LiveAt 0 (slot0 full) full ∧
      hw.poolCap ≤ full.poolUsed := ⟨rfl, by decide, bed_live _, Nat.le_refl _⟩

/-- A Live instance and a handle that names none. -/
theorem witness_ReservedIndexWritesDoNothing :
    ((bed fresh).chip? (.slot 0)).isSome = true ∧ ((bed fresh).chip? (.slot 1)).isSome = false := ⟨rfl, rfl⟩

/-- The smallest stamp the obligation admits: equal to the last one. -/
theorem witness_WriteKeepsStampOrder :
    (bed straddling).chip? (.slot 0) = some straddling ∧ straddling.queues.Ordered ∧ straddling.writeInOrder decisions 8 32 ∧
      ∃ t c', exec (.wr 8 (.slot 0) 1 32) (bed straddling) = .next t ∧ t.chip? (.slot 0) = some c' := by
  refine ⟨rfl, straddling_ordered, ?_, _, _, rfl, rfl⟩
  unfold Chip.writeInOrder appendKeepsOrder
  decide

theorem witness_CycleAdjustRebases : (bed straddling).LiveAt 0 (slot0 straddling) straddling := bed_live _

theorem witness_RunCompletes : (bed straddling).LiveAt 0 (slot0 straddling) straddling ∧
    straddling.binding.engine? = some e0 ∧ 32 % 32 = 0 := ⟨bed_live _, rfl, rfl⟩

/-- Each of the three failures. -/
theorem witness_RunFailures :
    let u := { fresh with binding := .unconfigured }
    (bed u).chip? (.slot 0) = some u ∧ 33 % 32 ≠ 0 ∧ 0 % 32 = 0 ∧ u.binding = .unconfigured := by decide

theorem witness_RunDrainsDueEvents : (bed straddling).chip? (.slot 0) = some straddling ∧
    straddling.binding.engine? = some e0 ∧ straddling.queues.Ordered ∧ 32 % 32 = 0 ∧
    ∃ t c', exec (.run (.slot 0) 32 true) (bed straddling) = .next t ∧ t.chip? (.slot 0) = some c' :=
  ⟨rfl, rfl, straddling_ordered, rfl, _, _, rfl, rfl⟩

/-- Register 8, written at 0, 31 and 32 in the tone queue alone; register 7 with the same copies in the tone and the
noise queue, on both sides of the span; register 0, for which nothing is queued. -/
theorem witness_RunCommitsLastDueWrite :
    ((bed straddling).chip? (.slot 0) = some straddling ∧ straddling.binding.engine? = some e0 ∧
      straddling.queues.Ordered ∧ 32 % 32 = 0 ∧
      (∀ id', id' ≠ .tone → ∀ ev ∈ straddling.queues.get id', ev.reg ≠ 8) ∧
      (∀ id', id' ≠ .noise → ∀ ev ∈ straddling.queues.get id', ev.reg ≠ 0) ∧
      ∃ t c', exec (.run (.slot 0) 32 true) (bed straddling) = .next t ∧ t.chip? (.slot 0) = some c') ∧
    (bed mixed).chip? (.slot 0) = some mixed ∧ mixed.binding.engine? = some e0 ∧ mixed.queues.Ordered ∧
      mixed.queues.tone.filter (fun ev => decide (ev.reg = 7)) = mixed.queues.noise.filter (fun ev => decide (ev.reg = 7)) ∧
      mixed.queues.env.filter (fun ev => decide (ev.reg = 7)) = [] ∧
      ∃ t c', exec (.run (.slot 0) 32 true) (bed mixed) = .next t ∧ t.chip? (.slot 0) = some c' := by
  refine ⟨⟨rfl, rfl, straddling_ordered, rfl, ?_, ?_, _, _, rfl, rfl⟩, rfl, rfl, mixed_ordered, rfl, rfl, _, _, rfl, rfl⟩ <;>
    intro id' h <;> cases id' <;> first | exact absurd rfl h | decide

/-- The same under StepBandlimited. -/
def blep : Chip := { restarting with engineKind := .stepBandlimited }

/-- Events of a Pulse instance on both sides of the span; a StepBandlimited instance; and an envelope restart due at tick 0, at tick 1, in the tail,
with none due at tick 2. -/
theorem witness_RunEmitsMixedTicks :
    ((bed straddling).LiveAt 0 (slot0 straddling) straddling ∧ straddling.engineKind ≠ .debugDump ∧
      straddling.binding.engine? = some e0 ∧ straddling.queues.Ordered ∧ 32 % 32 = 0) ∧
    (bed restarting).LiveAt 0 (slot0 restarting) restarting ∧ restarting.engineKind = .pulse ∧ blep.engineKind ≠ .debugDump ∧
      (bed blep).LiveAt 0 (slot0 blep) blep ∧ blep.engineKind ≠ .pulse ∧ blep.binding.engine? = some e0 ∧ blep.queues.Ordered ∧
      restarting.binding.engine? = some e0 ∧ restarting.queues.Ordered ∧ 0 < 32 / 8 ∧
      (∃ ev ∈ restarting.queues.env, ev.reg = 13 ∧ ev.ts ≤ 8 * 0) ∧
      (∃ ev ∈ restarting.queues.env, ev.reg = 13 ∧ ev.ts ≤ 8 * 1 ∧ 8 * 1 - 8 < ev.ts) ∧
      (¬ ∃ id, ∃ ev ∈ restarting.queues.get id, ev.reg = 13 ∧ ev.ts ≤ 8 * 2 ∧ 8 * 2 - 8 < ev.ts) ∧
      ∃ ev ∈ restarting.queues.env, ev.reg = 13 ∧ ev.ts < 32 ∧ 32 - 8 < ev.ts := by
  refine ⟨⟨bed_live _, by decide, rfl, straddling_ordered, rfl⟩, bed_live _, rfl, by decide, bed_live _, by decide, rfl,
    restarting_ordered, rfl, restarting_ordered, by decide, by decide,
    by decide, ?_, by decide⟩
  rintro ⟨id, h⟩
  revert h
  cases id <;> decide

theorem witness_RebaseAfterRunStaysNonNegative : (bed straddling).chip? (.slot 0) = some straddling ∧
    straddling.binding.engine? = some e0 ∧ straddling.queues.Ordered ∧ 32 % 32 = 0 ∧
    ∃ t u c', exec (.run (.slot 0) 32 true) (bed straddling) = .next t ∧
      exec (.cycleAdjust (.slot 0) 32) t = .next u ∧ u.chip? (.slot 0) = some c' :=
  ⟨rfl, rfl, straddling_ordered, rfl, _, _, _, rfl, rfl, rfl⟩

/-- Pulse against StepBandlimited, with generator state that differs in the filter only. -/
theorem witness_EnginesAgreeOnRegisters :
    let c := { straddling with engineKind := .stepBandlimited, binding := .running { e0 with filter := 5 } }
    (bed straddling).chip? (.slot 0) = some straddling ∧ (bed c).chip? (.slot 0) = some c ∧
      straddling.binding.engine? = some e0 ∧ c.binding.engine? = some { e0 with filter := 5 } ∧
      32 % 32 = 0 ∧ straddling.x = c.x ∧ straddling.queues = c.queues ∧ straddling.poolUsed = c.poolUsed ∧
      straddling.sampleRateHz = c.sampleRateHz ∧ straddling.clockHz = c.clockHz ∧
      straddling.engineKind ≠ .debugDump ∧ c.engineKind ≠ .debugDump ∧
      (∃ t d, exec (.run (.slot 0) 32 true) (bed straddling) = .next t ∧ t.chip? (.slot 0) = some d) ∧
      ∃ t d, exec (.run (.slot 0) 32 true) (bed c) = .next t ∧ t.chip? (.slot 0) = some d :=
  ⟨rfl, rfl, rfl, rfl, rfl, rfl, rfl, rfl, rfl, rfl, by decide, by decide, ⟨_, _, rfl, rfl⟩, _, _, rfl, rfl⟩

theorem witness_PowerOnRegistersAreSilent :
    let c := loaded [] [] []
    let s := { bed c with g := Global.initial hw design }
    s.LiveAt 0 (slot0 c) c ∧ c.x = resetReg ∧ c.queues = ⟨[], [], []⟩ ∧ c.binding = .configured e0 ∧
      s.g.volTable = buildVolumeTable hw decisions .linear hw.peakLevel ∧ 32 % 32 = 0 :=
  ⟨⟨rfl, rfl⟩, rfl, rfl, rfl, rfl, rfl⟩

theorem witness_DebugDumpRecordsEachAppliedEvent :
    let c := { straddling with engineKind := .debugDump }
    (bed c).LiveAt 0 (slot0 c) c ∧ c.engineKind = .debugDump ∧ c.binding.engine? = some e0 ∧ 32 % 32 = 0 ∧
      c.queues.Ordered := ⟨bed_live _, rfl, rfl, rfl, straddling_ordered⟩

/-- The other slot differs. -/
theorem witness_RunIgnoresOtherInstances :
    let s₂ := { bed straddling with chips := [slot0 straddling, slot0 fresh] }
    (bed straddling).g.volTable = s₂.g.volTable ∧ (bed straddling).slot? (.slot 0) = s₂.slot? (.slot 0) ∧
      (∃ t, exec (.run (.slot 0) 32 true) (bed straddling) = .next t) ∧ ∃ t, exec (.run (.slot 0) 32 true) s₂ = .next t :=
  ⟨rfl, rfl, ⟨_, rfl⟩, _, rfl⟩

/-- A due head, equal heads, and no due head. -/
theorem witness_NextDueIsEarliestHead : straddling.queues.nextDue queueRank 0 = some .tone ∧
    (⟨[⟨4, 8, 1⟩], [⟨4, 6, 1⟩], []⟩ : Queues).nextDue queueRank 4 = some .tone ∧ straddling.queues.nextDue queueRank (-1) = none := by decide

/-- Both clauses, register 13 and another one. -/
theorem witness_ApplyEventEffect : EngineKind.debugDump = .debugDump ∧ EngineKind.pulse ≠ .debugDump ∧
    (Event.mk 0 13 0).reg = 13 ∧ (Event.mk 0 12 0).reg ≠ 13 := by decide

theorem witness_PulseOutSamples : 5 < 6 ∧ 0 < ([3100, 0, 3100, 0] : List Sample).length := by decide

/-- A Live instance; the largest number that is its own result word. -/
theorem witness_BufSizeAnswers : (bed fresh).LiveAt 0 (slot0 fresh) fresh ∧ 4294967295 < 2 ^ 32 :=
  ⟨bed_live fresh, by decide⟩

theorem witness_EveryDesignSequencesAlike : (bed straddling).LiveAt 0 (slot0 straddling) straddling ∧
    straddling.binding.engine? = some e0 ∧ straddling.queues.Ordered ∧ 32 % 32 = 0 :=
  ⟨bed_live _, rfl, straddling_ordered, rfl⟩

/-- Another design: the envelope queue first among equal stamps. -/
def envFirst : Design :=
  { design with
    decisions :=
      { decisions with
        sequence :=
          { sequencing with
            rank := fun
              | .env => 0
              | .tone => 1
              | .noise => 2
            rank_inj := fun id id' h => by cases id <;> cases id' <;> first | rfl | exact absurd h (by decide) } } }

/-- The design decides the tie: of two writes of one stamp for register 8 the later queue's stays. -/
theorem test_design_decides_ties :
    let c := loaded [⟨4, 8, 1⟩] [] [⟨4, 8, 2⟩]
    part (command exampleP1 design (.run (.slot 0) 32 true) (bed c)) (fun c => c.x.get 8) = some 2 ∧
      part (command exampleP1 envFirst (.run (.slot 0) 32 true) (bed c)) (fun c => c.x.get 8) = some 1 := by decide

/-- Another design: an overflow counter of 2 bits. -/
def narrowCounter : Design :=
  { design with decisions := { decisions with widths := { widths with overflow := 2 } } }

/-- The design decides the width: a counter of 2 bits saturates at 3. -/
theorem test_design_decides_width :
    let c := { fresh with poolUsed := 8, overflowCount := 3 }
    part (command exampleP1 narrowCounter (.wr8 (.slot 0) 1 0) (bed c)) (fun c => c.overflowCount) = some 3 ∧
      part (command exampleP1 design (.wr8 (.slot 0) 1 0) (bed c)) (fun c => c.overflowCount) = some 4 := by decide

/-- Another design: a mixer write is queued whole or not at all, and one of which something is dropped counts one. -/
def mixerWhole : Design :=
  { design with
    decisions :=
      { decisions with
        writes :=
          { writes with
            accept := fun room ids => if ids.length ≤ room then (ids, 0) else ([], 1)
            accept_one := fun room _ => by
              cases room <;> simp
            accept_sublist := fun _ ids => by
              split
              · exact .refl ids
              · exact List.nil_sublist ids
            accept_le := fun _ _ => by
              split
              · assumption
              · exact Nat.zero_le _ } } }

/-- R5, D21: the design says what of a mixer write is dropped and how it counts. -/
theorem test_design_drops_mixer_writes :
    let c := { fresh with poolUsed := 7 }
    let s (D : Design) := part (command exampleP1 D (.wr7 (.slot 0) 0xF8 0) (bed c)) fun c =>
      (c.queues.tone.length, c.queues.noise.length, c.overflowCount)
    s mixerWhole = some (0, 0, 1) ∧ s design = some (1, 0, 1) := by decide

/-- Another design: GLOBAL_SHUTDOWN clears `G.init` and nothing else. -/
def quietShutdown : Design :=
  { design with
    decisions :=
      { decisions with
        lifetime :=
          { lifetime with
            closed := fun _ g l => ({ g with init := false }, l)
            closed_length := fun _ _ _ => rfl } } }

/-- R5, D42: the design says what GLOBAL_SHUTDOWN does. -/
theorem test_design_closes :
    let s := { bed fresh with chips := [⟨.destroyed, [7], []⟩] }
    let t (D : Design) := command exampleP1 D .globalShutdown s
    (t quietShutdown).chips = s.chips ∧ (t quietShutdown).g.defRate = 44100 ∧ (t design).chips = [⟨.absent, [7], []⟩] := by
  decide

/-- Another design: the generators stand still while every channel is muted. -/
def frozenWhenMuted : Design :=
  { design with
    generators := fun d =>
      { generatorModel d with
        stepGenerators := fun kind mute x e => if mute = 0 then e else (generatorModel d).stepGenerators kind mute x e } }

/-- R5, D58: the design says whether a muted generator runs on. -/
theorem test_design_freezes_muted_generators :
    let count (D : Design) := (tick D ⟨.pulse, (bed fresh).g.volTable, 0⟩ (fresh.synth e0)).eng.envCnt
    count frozenWhenMuted = 0 ∧ count design = 1 := by decide

/-- Another design: CREATE sets no engine up, answers zeros and keeps the streams. -/
def bareCreate : Design :=
  { design with
    creation := fun d _ P g _ old =>
      { slot := { old with life := .live (Chip.blank P d g) }, ending := .done, res0 := 0, res1 := 0, res2 := 0
        draws := 0 } }

/-- R5, D34: the design says what CREATE does and answers. -/
theorem test_design_creates :
    let s := { bed fresh with chips := [⟨.destroyed, [7], []⟩] }
    let t (D : Design) := command exampleP1 D (.create (.slot 0)) s
    part (t bareCreate) (fun c => c.binding) = some .unconfigured ∧ pcmOf (t bareCreate) = some [7] ∧
      (t bareCreate).draws = 0 ∧ answer (t bareCreate) = some (.ok, 0, 0, 0) ∧
      part (t design) (fun c => c.binding) = some (.configured e0) ∧ pcmOf (t design) = some [] ∧
      (t design).draws = 1 ∧ answer (t design) = some (.ok, 1, 2000000, 44100) := by decide

/-- Another design: no result words with E_SETUP, a dead handle as the null handle, one sample in two written, each
on two channels. -/
def otherAnswers : Design :=
  { design with
    decisions :=
      { decisions with
        checks := { commandChecks with deadIsNull := true }
        reports :=
          { reports with
            answer := fun cmd e r0 r1 r2 =>
              match e with
              | .setupFailed => ⟨.eSetup, 0, 0, 0⟩
              | _ => Machine.answer cmd e r0 r1 r2 } }
    written := fun _ n => n / 2
    layout := fun _ _ _ _ out => out.flatMap fun v => [v, v] }

/-- R5, D15, D53: the design says which words come with E_SETUP. -/
theorem test_design_answers_failed_setup :
    let P := { exampleP1 with setupOk := fun _ _ _ => false }
    let t (D : Design) := answer (command P D (.setEngine (.slot 0) 2) (bed fresh))
    t otherAnswers = some (.eSetup, 0, 0, 0) ∧ t design = some (.eSetup, 2, 0, 0) := by decide

/-- R5, D34: the design says whether a dead handle is the null handle to a setter. -/
theorem test_design_takes_dead_handles :
    let t (D : Design) := answer (command exampleP1 D (.setActive (.slot 1) 4 0) (bed fresh))
    t otherAnswers = some (.ok, 3, 0, 0) ∧ t design = some (.eInval, 0, 0, 0) := by decide

/-- R5, D32, D33: the design says how many samples a run writes and how they lie in the stream. -/
theorem test_design_lays_out_samples :
    let t (D : Design) := command exampleP1 D (.run (.slot 0) 32 true) (bed (loaded [] [] []))
    (pcmOf (t otherAnswers)).map List.length = some 4 ∧ answer (t otherAnswers) = some (.ok, 2, 0, 0) ∧
      (pcmOf (t design)).map List.length = some 4 ∧ answer (t design) = some (.ok, 4, 0, 0) := by decide

/-- A register file with every byte `b`, and the engine after reset but for the counts. -/
def filled (b : Byte) : RegFile := Vector.replicate 14 b

def counting (e : EngineState) : EngineState :=
  { e with tone := ⟨⟨4094, true⟩, ⟨4094, true⟩, ⟨4094, true⟩⟩, noiseCnt := 61, envCnt := 65534 }

/-- A fresh count; both ends of the range of half-periods: 0 counted as 1, and 4095. -/
theorem witness_ToneHalfPeriod : (e0.tone.get .c).count = 0 ∧
    max 1 (((filled 0).get 1).toNat % 16 * 256 + ((filled 0).get 0).toNat) = 1 ∧
    max 1 (((filled 0xFF).get 1).toNat % 16 * 256 + ((filled 0xFF).get 0).toNat) = 4095 ∧ 0 < 1 ∧ 4094 < 4095 ∧
    4095 ≤ ((counting e0).tone.get .a).count.toNat + 1 ∧ ¬ 4095 ≤ (e0.tone.get .a).count.toNat + 1 := by decide

/-- A register that is not zero, equal shifts, a fresh count, both ends of the range of noise periods. -/
theorem witness_NoiseRegisterRuns : 0 < 16 ∧ 15 < 16 ∧ (1 : BitVec 17) ≠ 0 ∧ shiftLfsr 1 = shiftLfsr 1 ∧
    e0.noiseCnt = 0 ∧ max 1 (((filled 0).get 6).toNat % 32) = 1 ∧ max 1 (((filled 0xFF).get 6).toNat % 32) = 31 ∧
    61 < 2 * 31 ∧ 2 * 31 ≤ (counting e0).noiseCnt.toNat + 1 ∧ ¬ 2 * 31 ≤ e0.noiseCnt.toNat + 1 := by decide

/-- Positions where the clauses meet; a shape without CONT, one with CONT and HOLD, one with CONT and without HOLD. -/
theorem witness_EnvelopeShape : 31 < 32 ∧ 32 ≤ 32 ∧ (0x7 : BitVec 4).getLsbD 3 = false ∧
    ((0xB : BitVec 4).getLsbD 3 = true ∧ (0xB : BitVec 4).getLsbD 0 = true) ∧
    (0xE : BitVec 4).getLsbD 3 = true ∧ (0xE : BitVec 4).getLsbD 0 = false := by decide

/-- A fresh count; both ends of the range of envelope periods. -/
theorem witness_EnvelopeStepPeriod : e0.envCnt = 0 ∧
    max 1 (((filled 0).get 12).toNat * 256 + ((filled 0).get 11).toNat) = 1 ∧
    max 1 (((filled 0xFF).get 12).toNat * 256 + ((filled 0xFF).get 11).toNat) = 65535 ∧ 65534 < 65535 ∧
    65535 ≤ (counting e0).envCnt.toNat + 1 ∧ ¬ 65535 ≤ e0.envCnt.toNat + 1 := by decide

/-- A volume byte for the envelope, one of level 0, one of a fixed level above 0. -/
theorem witness_LevelSelect : ((filled 0x10).get 8).getLsbD 4 = true ∧
    (((filled 0x20).get 9).getLsbD 4 = false ∧ ((filled 0x20).get 9).toNat % 16 = 0) ∧
    ((filled 0x0F).get 10).getLsbD 4 = false ∧ ((filled 0x0F).get 10).toNat % 16 ≠ 0 := by decide

/-- An open gate and a closed one; a muted channel and one that is not. -/
theorem witness_MutedChannelsReadLevelZero :
    ((!e0.tone.a.phase || ((filled 0).get 7).getLsbD 0) && (e0.lfsr.getLsbD 0 || ((filled 0).get 7).getLsbD 3)) = true ∧
    ((!(counting e0).tone.a.phase || ((filled 0x38).get 7).getLsbD 0) &&
      (e0.lfsr.getLsbD 0 || ((filled 0x38).get 7).getLsbD 3)) = false ∧
    (0b001 : BitVec 3).getLsbD 0 = true ∧ (0b001 : BitVec 3).getLsbD 1 = false := by decide

theorem witness_VolumeTableFormula : 32767 ≤ 32767 ∧ 0 ≤ 32767 := by decide

theorem witness_VolumeTableMonotone : 32767 ≤ 32767 ∧ (30 : Level) ≤ 31 := by decide

/-- One state for each clause: a dead handle, an uninitialised block, an initialised one. -/
theorem witness_SetVolModelSelects :
    (ChipSel.slot 1 ≠ .null ∧ (bed fresh).chip? (.slot 1) = none) ∧
      ((ChipSel.null = .null ∨ (cold.chip? .null).isSome = true) ∧ cold.g.init = false) ∧
      ((bed fresh).chip? (.slot 0)).isSome = true ∧ (bed fresh).g.init = true :=
  ⟨⟨by decide, rfl⟩, ⟨.inl rfl, rfl⟩, rfl, rfl⟩

/-- One state for each clause: a dead handle, an uninitialised block, a Live instance, the null handle. -/
theorem witness_SetActiveComputesMask :
    (bed fresh).chip? (.slot 1) = none ∧
      ((ChipSel.null = .null ∨ (cold.chip? .null).isSome = true) ∧ cold.g.init = false) ∧
      (bed fresh).LiveAt 0 (slot0 fresh) fresh ∧ (bed fresh).g.init = true :=
  ⟨rfl, ⟨.inl rfl, rfl⟩, bed_live fresh, rfl⟩

/-- An instance with an engine bound and one without. -/
theorem witness_SetRateClampsAndAdjusts :
    let u := { fresh with binding := .unconfigured }
    (bed fresh).LiveAt 0 (slot0 fresh) fresh ∧ fresh.binding.engine?.isSome = true ∧
      (bed u).LiveAt 0 (slot0 u) u ∧ u.binding.engine?.isSome = false := ⟨bed_live _, rfl, bed_live _, rfl⟩

theorem witness_SetEngineOnInstance : (bed fresh).LiveAt 0 (slot0 fresh) fresh ∧ (bed fresh).g.init = true ∧
    (0xFFFFFFFF : Word) = 0xFFFFFFFF ∧ (0xFFFFFFFE : Word) ≠ 0xFFFFFFFF := ⟨bed_live _, rfl, rfl, by decide⟩

theorem witness_SetEngineOnDefault : (bed fresh).g.init = true := rfl

theorem witness_ConfigureNegotiates : (bed fresh).LiveAt 0 (slot0 fresh) fresh := bed_live fresh

/-- An Absent slot and a Destroyed one. -/
theorem witness_CreateBuildsInstance :
    let s := { bed fresh with chips := [slot0 fresh, Slot.absent, ⟨.destroyed, [5], []⟩] }
    s.slot? (.slot 1) = some Slot.absent ∧ Slot.absent.chip? = none ∧
      s.slot? (.slot 2) = some ⟨.destroyed, [5], []⟩ ∧ (Slot.mk .destroyed [5] []).chip? = none ∧ s.g.init = true :=
  ⟨rfl, rfl, rfl, rfl, rfl⟩

/-- The null handle, a number that names no slot, not initialised, a Live slot. -/
theorem witness_CreateFailures : (bed fresh).slot? .null = none ∧ (bed fresh).slot? (.slot 2) = none ∧
    (cold.slot? (.slot 1)).isSome = true ∧ cold.g.init = false ∧ ((bed fresh).chip? (.slot 0)).isSome = true :=
  ⟨rfl, rfl, rfl, rfl, rfl⟩

theorem witness_ResetRestoresPowerOn : (bed straddling).LiveAt 0 (slot0 straddling) straddling := bed_live _

/-- A count of zero and a count that is not. -/
theorem witness_CleanupDestroysAndReports :
    let c := { fresh with overflowCount := 3 }
    (bed fresh).LiveAt 0 (slot0 fresh) fresh ∧ fresh.overflowCount = 0 ∧ (bed c).LiveAt 0 (slot0 c) c ∧
      c.overflowCount ≠ 0 := ⟨bed_live _, rfl, bed_live _, by decide⟩

theorem witness_GlobalInitEstablishes : cold.g.init = false ∧ (bed fresh).g.init = true := ⟨rfl, rfl⟩

/-- It closes; it fails for each of the two reasons. -/
theorem witness_GlobalShutdownCloses :
    let s := { bed fresh with chips := [⟨.destroyed, [], []⟩, Slot.absent] }
    s.g.init = true ∧ s.anyLive = false ∧ cold.g.init = false ∧ (bed fresh).anyLive = true := ⟨rfl, rfl, rfl, rfl⟩

/-- Configured to Running by RUN, Running to Configured by RESET, Unconfigured before BUFSIZE. -/
theorem witness_BindingStateMachine :
    let r := { fresh with binding := .running e0 }
    let u := { fresh with binding := .unconfigured }
    (∃ t c', exec (.run (.slot 0) 32 true) (bed fresh) = .next t ∧ t.chip? (.slot 0) = some c' ∧
      fresh.binding.name = .configured ∧ c'.binding.name = .running) ∧
    (∃ t c', exec (.reset (.slot 0) 0) (bed r) = .next t ∧ t.chip? (.slot 0) = some c' ∧
      r.binding.name = .running ∧ c'.binding.name = .configured) ∧
    ∃ t, exec (.bufSize (.slot 0) 0) (bed u) = .next t ∧ t.chip? (.slot 0) = some u ∧
      u.binding.name = .unconfigured :=
  ⟨⟨_, _, rfl, rfl, rfl, rfl⟩, ⟨_, _, rfl, rfl, rfl, rfl⟩, _, rfl, rfl, rfl⟩

/-- The two moves that depend on the answer of setup, under parameters where it is yes and where it is no: unbound to
bound and bound to unbound, by CONFIGURE. -/
theorem witness_BindingStateMachine_setup :
    part (configure exampleP1 design (.slot 0) 1 2000000 44100 (bed { fresh with binding := .unconfigured }))
        (fun c => c.binding.name) = some .configured ∧
      part (configure { exampleP1 with setupOk := fun _ _ _ => false } design (.slot 0) 1 2000000 44100 (bed fresh))
        (fun c => c.binding.name) = some .unconfigured := by decide

/-- Both ends of the range of stamps. -/
theorem witness_DumpRecordLayout : (-2 ^ 31 : Int) ≤ (Event.mk (-2147483648) 13 0).ts ∧
    (Event.mk 2147483647 13 0).ts < (2 ^ 31 : Int) := by decide

end Sys2Proof.Tests
end

section
/-! What a step does with the command port, and what RUN does under every configuration: the run of a bound chip, the
slot it leaves, and what its walk makes of ordered queues and of the registers. -/

namespace Sys2Proof.Machine

open Sys2Proof.Config

/-! ## The step -/

/-- An empty command port (log 5). -/
theorem fetch_of_cmds_nil {s : State} (h : s.cmds = []) : fetch s = none := by
  simp [fetch, h]

/-- The next frame is taken, the later ones stay on the port. -/
theorem fetch_of_cmds_cons {s : State} {w : FrameBits} {rest : List FrameBits} (h : s.cmds = w :: rest) :
    fetch s = some (w, { s with cmds := rest }) := by
  simp [fetch, h]

/-- The idle step (70_reset_and_hazards.md R351). -/
theorem step_of_fetch_none {s : State} (h : fetch s = none) : step s = .next s := by
  simp [step, h]

/-- The step of a frame that is not reserved (00_scope.md R10). -/
theorem step_of_fetch_command {s s' : State} {w : FrameBits} {i : Instr} (h : fetch s = some (w, s'))
    (hw : decode w = .command i) : step s = exec i s' := by
  simp [step, h, hw]

/-- Settles O5: the port's next frame is fetched, and the step of a fetched command is that command. -/
theorem stepRunsDecodedCommand : Obligations.StepRunsDecodedCommand := by
  unfold Obligations.StepRunsDecodedCommand
  constructor
  · intro s w rest i hs hw
    exact step_of_fetch_command (fetch_of_cmds_cons hs) hw
  · intro s hs
    exact step_of_fetch_none (fetch_of_cmds_nil hs)

/-! ## RUN under every design -/

/-- RUN past its checks, under every configuration: an aligned span, a sink, an engine bound
(43_synthesis_engine.md R220). -/
theorem run_of_bound (P : Params) (D : Design) {s : State} {sel : ChipSel} {c : Chip} {e : EngineState} {elapsed : Nat}
    (h : s.chip? sel = some c) (he : c.binding.engine? = some e) (ha : elapsed % 32 = 0) :
    run P D sel elapsed true s =
      ((s.setChip sel (c.engineRun P D s.g.volTable e elapsed).chip).emit sel
        (c.engineRun P D s.g.volTable e elapsed).pcm (c.engineRun P D s.g.volTable e elapsed).dump).ends D .run .done
        (D.decisions.reports.runWord (c.samplesWritten D elapsed)) := by
  have hf : ({ alignment := elapsed % 32 ≠ 0, buffer := !true } : Failing) = {} := by simp [ha]
  rw [run, hf, State.onChip_bound h he]
  simp only [he]

/-- The slot of a completed RUN: the chip as `engineRun` leaves it, the output behind what stood in the streams
(43_synthesis_engine.md R220, R221). -/
theorem run_liveAt (P : Params) (D : Design) {s : State} {n : SlotNo} {sl : Slot} {c : Chip} {e : EngineState}
    {elapsed : Nat} (h : s.LiveAt n sl c) (he : c.binding.engine? = some e) (ha : elapsed % 32 = 0) :
    let r := c.engineRun P D s.g.volTable e elapsed
    (run P D (.slot n) elapsed true s).LiveAt n ⟨.live r.chip, sl.pcm ++ r.pcm, sl.dump ++ r.dump⟩ r.chip where
  slot := by simp [run_of_bound P D h.chip? he ha, h.slot]
  life := rfl

/-- The answer of a completed RUN (43_synthesis_engine.md R220). -/
theorem run_resp (P : Params) (D : Design) {s : State} {sel : ChipSel} {c : Chip} {e : EngineState} {elapsed : Nat}
    (h : s.chip? sel = some c) (he : c.binding.engine? = some e) (ha : elapsed % 32 = 0) :
    (run P D sel elapsed true s).resp =
      some (D.decisions.reports.answer .run .done (D.decisions.reports.runWord (c.samplesWritten D elapsed)) 0 0) := by
  rw [run_of_bound P D h he ha, State.ends_resp]

/-- A walk drains ordered queues up to the last stamp of the span, and no further (43_synthesis_engine.md R223). -/
theorem walk_queues_get (D : Design) (env : WalkEnv) (elapsed : Nat) {w : Synth} (ho : w.queues.Ordered) (id : QueueId) :
    (walk D env elapsed w).2.queues.get id =
      (w.queues.get id).filter fun ev => decide (D.decisions.sequence.last elapsed < ev.ts) := by
  obtain ⟨l, hl⟩ := walk_applied D env elapsed w
  exact hl.rest ho (walk_nextDue D env elapsed w) id

/-- A walk from ordered queues commits, register by register, the last write of the span
(43_synthesis_engine.md R223, R226). -/
theorem walk_commits (D : Design) (env : WalkEnv) (elapsed : Nat) {w : Synth} (ho : w.queues.Ordered) (i : Reg) :
    w.queues.Commits D.decisions.sequence.rank (D.decisions.sequence.last elapsed) i (w.x.get i)
      ((walk D env elapsed w).2.x.get i) := by
  obtain ⟨l, hl⟩ := walk_applied D env elapsed w
  exact hl.commits ho (walk_nextDue D env elapsed w) i

/-- Settles O36: the walk of every design drains what is due and commits the last of it, and RUN puts its outcome into
the slot. -/
theorem everyDesignSequencesAlike : Obligations.EveryDesignSequencesAlike := by
  unfold Obligations.EveryDesignSequencesAlike
  intro P D s n sl c e elapsed hl he ho ha count last t
  have ho' : (c.synth e).queues.Ordered := ho
  refine ⟨_, _, _, _, run_liveAt P D hl he ha, D.decisions.sequence.last_lt elapsed, ?queues, ?registers, rfl, ?ticks,
    ?samples, rfl, ?answer⟩
  case queues => exact walk_queues_get D _ elapsed ho'
  case registers => exact walk_commits D _ elapsed ho'
  case ticks => simp
  case samples => exact engineOut_length P D _ _ _ _ _
  case answer => exact run_resp P D hl.chip? he ha

end Sys2Proof.Machine
end

section
/-! What a command makes of one slot, said once for the spec's design, and what follows for the volume table, the
registers and the streams (10_state.md R21, R40, R43). -/

namespace Sys2Proof.Machine

open Sys2Proof.Config

/-! ## Slots -/

/-- What is read of the slots rests on the slots alone. -/
theorem State.slot?_congr {s t : State} (h : t.chips = s.chips) (sel : ChipSel) : t.slot? sel = s.slot? sel := by
  cases sel <;> simp [State.slot?, h]

/-- With at most 255 slots each stands under a handle (30_encoding.md R92). -/
theorem State.mem_chips_iff {s : State} (hlen : s.chips.length ≤ 255) {sl : Slot} :
    sl ∈ s.chips ↔ ∃ n, s.slot? (.slot n) = some sl := by
  simp only [State.slot?, List.mem_iff_getElem?]
  constructor
  · rintro ⟨k, hk⟩
    have hlt : k < s.chips.length := (List.getElem?_eq_some_iff.mp hk).1
    exact ⟨⟨k, by omega⟩, hk⟩
  · rintro ⟨n, hn⟩
    exact ⟨n, hn⟩

/-- The slot a Live instance was found in is the one its handle reads. -/
theorem State.LiveAt.life_of_slot? {s : State} {n : SlotNo} {sl sl' : Slot} {c : Chip} (h : s.LiveAt n sl c)
    (hs : s.slot? (.slot n) = some sl') : sl'.life = .live c := by
  obtain rfl : sl = sl' := Option.some.inj (h.slot.symm.trans hs)
  exact h.life

/-- RUN's two changes of its slot as one. -/
theorem State.emit_setChip (s : State) (sel : ChipSel) (c : Chip) (p : List Sample) (d : List (BitVec 64)) :
    (s.setChip sel c).emit sel p d = s.modifySlot sel fun sl => ⟨.live c, sl.pcm ++ p, sl.dump ++ d⟩ := by
  cases sel with
  | null => rfl
  | slot n => simp [State.setChip, State.emit, State.modifySlot, List.modify_modify_eq, Function.comp_def]

/-- CREATE behind its checks: the block is initialised and the slot not Live (41_lifecycle.md R172). -/
theorem create_passed {s : State} {n : SlotNo}
    (h : decisions.checks.verdict .create (s.createFailing (.slot n)) = none) :
    s.g.init = true ∧ s.chip? (.slot n) = none := by
  simp only [verdict_decisions, State.createFailing, CommandKind.checksLifecycle, Bool.true_and] at h
  split at h
  · cases h
  split at h
  · cases h
  · next hf => simpa using hf

/-! ## What a command makes of one slot -/

/-- What a command can make of slot `n`, but for the two global commands. -/
inductive SlotEffect (P : Params) (i : Instr) (s : State) (n : SlotNo) (sl : Slot) : Slot → Prop where
  | kept : SlotEffect P i s n sl sl
  | update (c c' : Chip) (life : sl.life = .live c) (upd : ChipUpdate P design i n c c') :
      SlotEffect P i s n sl { sl with life := .live c' }
  | restarted (c : Chip) (m : Nat) (cmd : i = .reset (.slot n) m) (life : sl.life = .live c) :
      SlotEffect P i s n sl { sl with life := .live (c.reset design) }
  | ran (c : Chip) (e : EngineState) (elapsed : Nat) (bufv : Bool) (cmd : i = .run (.slot n) elapsed bufv)
      (life : sl.life = .live c) (bound : c.binding.engine? = some e) :
      SlotEffect P i s n sl ⟨.live (c.engineRun P design s.g.volTable e elapsed).chip,
        sl.pcm ++ (c.engineRun P design s.g.volTable e elapsed).pcm,
        sl.dump ++ (c.engineRun P design s.g.volTable e elapsed).dump⟩
  | created (cmd : i = .create (.slot n)) (init : s.g.init = true) (dead : sl.chip? = none) :
      SlotEffect P i s n sl (design.create P s.g (engineSetup P s) sl).slot
  | destroyed (c : Chip) (cmd : i = .cleanup (.slot n)) (life : sl.life = .live c) :
      SlotEffect P i s n sl { sl with life := .destroyed }

/-- Slot `n` after a command that changes no slot. -/
theorem SlotEffect.of_kept {P : Params} {i : Instr} {s t : State} {n : SlotNo} {sl sl' : Slot}
    (hc : t.chips = s.chips) (hs : s.slot? (.slot n) = some sl) (hs' : t.slot? (.slot n) = some sl') :
    SlotEffect P i s n sl sl' := by
  rw [State.slot?_congr hc, hs] at hs'
  cases hs'
  exact .kept

/-- Slot `n` after a command that changes slot `m` alone, by what it does to slot `m`. -/
theorem SlotEffect.of_modify {P : Params} {i : Instr} {s t : State} {m n : SlotNo} {sl sl' : Slot} {f : Slot → Slot}
    (hc : t.chips = (s.modifySlot (.slot m) f).chips) (hs : s.slot? (.slot n) = some sl)
    (hs' : t.slot? (.slot n) = some sl')
    (hf : ∀ sl', s.slot? (.slot m) = some sl' → SlotEffect P i s m sl' (f sl')) : SlotEffect P i s n sl sl' := by
  rw [State.slot?_congr hc] at hs'
  by_cases hmn : n = m
  · subst hmn
    rw [State.slot?_modifySlot_self, hs] at hs'
    cases hs'
    exact hf sl hs
  · have hne : ChipSel.slot n ≠ .slot m := by simpa using hmn
    rw [State.slot?_modifySlot_other s hne, hs] at hs'
    cases hs'
    exact .kept

/-- A slot after every slot was made Absent (41_lifecycle.md R170, R171; log 11). -/
theorem slot?_of_absentSlots {s t : State} {n : SlotNo} {sl sl' : Slot} (hc : t.chips = absentSlots s.chips)
    (hs : s.slot? (.slot n) = some sl) (hs' : t.slot? (.slot n) = some sl') : sl' = { sl with life := .absent } := by
  simp only [State.slot?] at hs hs'
  rw [hc, absentSlots, List.getElem?_map, hs] at hs'
  exact (Option.some.inj hs').symm

/-- Slot `n` after any command: changed by the command's own work on it, with `G.init` as before, or made Absent by a
global command, with its streams as before. -/
theorem Effect.slot {P : Params} {i : Instr} {s t : State} {n : SlotNo} {sl sl' : Slot} (h : Effect P design i s t)
    (hs : s.slot? (.slot n) = some sl) (hs' : t.slot? (.slot n) = some sl') :
    t.g.init = s.g.init ∧ SlotEffect P i s n sl sl' ∨ sl' = { sl with life := .absent } := by
  cases h with
  | quiet hc hg => exact .inl ⟨by rw [hg], .of_kept hc hs hs'⟩
  | defaultMask _ _ _ _ _ _ _ hc hg => exact .inl ⟨by rw [hg]; rfl, .of_kept hc hs hs'⟩
  | defaultRate _ _ _ allowed => cases allowed
  | defaultEngine _ _ _ _ _ _ hc hg => exact .inl ⟨by rw [hg]; rfl, .of_kept hc hs hs'⟩
  | model _ _ _ _ _ hc hg => exact .inl ⟨by rw [hg]; rfl, .of_kept hc hs hs'⟩
  | update m _ c c' live upd hc hg =>
    exact .inl ⟨by rw [hg], .of_modify hc hs hs' fun _ h => .update c c' (live.life_of_slot? h) upd⟩
  | restarted m _ c k cmd live hc hg =>
    exact .inl ⟨by rw [hg], .of_modify hc hs hs' fun _ h => .restarted c k cmd (live.life_of_slot? h)⟩
  | ran m _ c e elapsed bufv live cmd bound _ hc hg =>
    rw [State.emit_setChip] at hc
    exact .inl ⟨by rw [hg], .of_modify hc hs hs' fun _ h => .ran c e elapsed bufv cmd (live.life_of_slot? h) bound⟩
  | created m sl₀ cmd slot passed hc hg =>
    obtain ⟨hi, hd⟩ := create_passed passed
    refine .inl ⟨by rw [hg], .of_modify hc hs hs' fun sl₁ h => ?_⟩
    obtain rfl : sl₀ = sl₁ := Option.some.inj (slot.symm.trans h)
    exact .created cmd hi (by simpa [State.chip?, slot] using hd)
  | destroyed m _ c cmd live hc hg =>
    exact .inl ⟨by rw [hg], .of_modify hc hs hs' fun _ h => .destroyed c cmd (live.life_of_slot? h)⟩
  | opened _ _ hc => exact .inr (slot?_of_absentSlots hc hs hs')
  | closed _ _ hc => exact .inr (slot?_of_absentSlots hc hs hs')

/-- The number of slots is fixed (10_state.md R20). -/
theorem Effect.length_chips {P : Params} {D : Design} {i : Instr} {s t : State} (h : Effect P D i s t) :
    t.chips.length = s.chips.length := by
  cases h with
  | opened _ _ hc => rw [hc, D.decisions.lifetime.opened_length]
  | closed _ _ hc => rw [hc, D.decisions.lifetime.closed_length]
  | _ => simp_all

/-! ## The volume table -/

/-- Every command but GLOBAL_INIT, GLOBAL_SHUTDOWN and SET_VOLMODEL leaves the volume table and its model, if it touches
`G` at all (10_state.md R40). -/
theorem Effect.volume {P : Params} {i : Instr} {s t : State} (h : Effect P design i s t) (ho : i ≠ .globalInit)
    (hc : i ≠ .globalShutdown) (hm : ∀ sel id, i ≠ .setVolModel sel id) :
    t.g.volTable = s.g.volTable ∧ t.g.volModel = s.g.volModel := by
  cases h with
  | defaultRate _ _ _ allowed => cases allowed
  | model sel id _ cmd => exact absurd cmd (hm sel id)
  | opened cmd => exact absurd cmd ho
  | closed cmd => exact absurd cmd hc
  | _ => simp_all

/-- Settles O15: what a command does to `G` spares the table. -/
theorem volumeTableWriters : Obligations.VolumeTableWriters := by
  unfold Obligations.VolumeTableWriters
  intro i s t h ho hc hm
  exact (exec_effect h).volume ho hc hm

/-! ## Appends -/

/-- Appends change the queues and the slots in use alone. -/
theorem Chip.foldl_append_eq (e : Event) (ids : List QueueId) (c : Chip) :
    ids.foldl (Chip.append e) c =
      { c with
        queues := (ids.foldl (Chip.append e) c).queues
        poolUsed := (ids.foldl (Chip.append e) c).poolUsed } := by
  induction ids generalizing c with
  | nil => rfl
  | cons id ids ih =>
    rw [List.foldl_cons, ih]
    rfl

/-- Enqueue changes the queues, the slots in use and the overflow counter alone (40_register_write.md R132). -/
theorem Chip.enqueue_eq (P : Params) (D : Design) (c : Chip) (ids : List QueueId) (e : Event) :
    c.enqueue P D ids e =
      { c with
        queues := (c.enqueue P D ids e).queues
        poolUsed := (c.enqueue P D ids e).poolUsed
        overflowCount := (c.enqueue P D ids e).overflowCount } := by
  simp only [Chip.enqueue]
  rw [Chip.foldl_append_eq]
  rfl

/-- A write on an instance: no register, or the byte stored and its event enqueued (40_register_write.md R130). -/
theorem Chip.write_cases (P : Params) (D : Design) (c : Chip) (r : PortIndex) (v : Byte) (m : Nat) :
    c.write P D r v m = c ∨ ∃ (sh : RegFile) (i : Reg) (b : Byte),
      c.write P D r v m = ({ c with sh := sh } : Chip).enqueue P D (route D.decisions r) ⟨m, i, b⟩ := by
  unfold Chip.write
  cases regOfPort r with
  | none => exact .inl rfl
  | some i => exact .inr ⟨_, i, _, rfl⟩

/-- A write commits nothing (10_state.md R21). -/
@[simp] theorem Chip.write_x (P : Params) (D : Design) (c : Chip) (r : PortIndex) (v : Byte) (m : Nat) :
    (c.write P D r v m).x = c.x := by
  rcases Chip.write_cases P D c r v m with h | ⟨sh, i, b, h⟩
  · rw [h]
  · rw [h, Chip.enqueue_eq]

/-! ## Registers -/

/-- A command on an instance but RUN and RESET leaves its committed registers. -/
theorem ChipUpdate.x_eq {P : Params} {i : Instr} {n : SlotNo} {c c' : Chip} (h : ChipUpdate P design i n c c') :
    c'.x = c.x := by
  cases h with
  | write r v m => exact Chip.write_x P design c r v m
  | _ => rfl

/-- A command on an instance but a write and RESET leaves its shadow registers. -/
theorem ChipUpdate.sh_eq {P : Params} {i : Instr} {n : SlotNo} {c c' : Chip} (h : ChipUpdate P design i n c c')
    (hw : ∀ r v m, i ≠ .wr r (.slot n) v m) : c'.sh = c.sh := by
  cases h with
  | write r v m cmd => exact absurd cmd (hw r v m)
  | _ => rfl

/-- RUN leaves the shadow registers. -/
theorem Chip.engineRun_sh (P : Params) (t : VolTable) (c : Chip) (e : EngineState) (m : Nat) :
    (c.engineRun P design t e m).chip.sh = c.sh := rfl

/-- The registers of an instance Live before and after a command. -/
theorem SlotEffect.registers {P : Params} {i : Instr} {s : State} {n : SlotNo} {sl sl' : Slot} {c c' : Chip}
    (h : SlotEffect P i s n sl sl') (hl : sl.life = .live c) (hl' : sl'.life = .live c')
    (hr : ∀ m, i ≠ .reset (.slot n) m) :
    ((∀ m b, i ≠ .run (.slot n) m b) → c'.x = c.x) ∧ ((∀ r v m, i ≠ .wr r (.slot n) v m) → c'.sh = c.sh) := by
  cases h with
  | kept =>
    obtain rfl : c = c' := Life.live.inj (hl.symm.trans hl')
    exact ⟨fun _ => rfl, fun _ => rfl⟩
  | update c₀ _ life upd =>
    obtain rfl : c₀ = c := Life.live.inj (life.symm.trans hl)
    cases hl'
    exact ⟨fun _ => upd.x_eq, upd.sh_eq⟩
  | restarted _ m cmd => exact absurd cmd (hr m)
  | ran c₀ e m b cmd life =>
    obtain rfl : c₀ = c := Life.live.inj (life.symm.trans hl)
    cases hl'
    exact ⟨fun hrun => absurd cmd (hrun m b), fun _ => Chip.engineRun_sh P _ _ e m⟩
  | created _ _ dead => cases (Slot.chip?_eq_some.mpr hl).symm.trans dead
  | destroyed => cases hl'

/-- Settles O13: whatever a command makes of the slot, it is RUN or RESET where it commits, a write or RESET where it
writes a shadow register; CREATE finds no Live instance. -/
theorem registerWriters : Obligations.RegisterWriters := by
  unfold Obligations.RegisterWriters
  intro i s t n c c' h hc hc'
  obtain ⟨sl, hs, hl⟩ := State.chip?_eq_some.mp hc
  obtain ⟨sl', hs', hl'⟩ := State.chip?_eq_some.mp hc'
  rcases (exec_effect h).slot hs hs' with ⟨-, he⟩ | rfl
  · exact ⟨fun hrun hr => (he.registers hl hl' hr).1 hrun, fun hw hr => (he.registers hl hl' hr).2 hw⟩
  · cases hl'

/-! ## Streams -/

/-- The streams of a slot after a command but its CREATE: appended to by RUN, left alone by every other
(10_state.md R43). -/
theorem SlotEffect.streams {P : Params} {i : Instr} {s : State} {n : SlotNo} {sl sl' : Slot}
    (h : SlotEffect P i s n sl sl') (hcreate : i ≠ .create (.slot n)) :
    (sl'.pcm = sl.pcm ∧ sl'.dump = sl.dump) ∨
      ∃ m b pcm dump, i = .run (.slot n) m b ∧ sl'.pcm = sl.pcm ++ pcm ∧ sl'.dump = sl.dump ++ dump := by
  cases h with
  | ran _ _ m b cmd => exact .inr ⟨m, b, _, _, cmd, rfl, rfl⟩
  | created cmd => exact absurd cmd hcreate
  | _ => exact .inl ⟨rfl, rfl⟩

/-- Settles O14: RUN appends to the streams of its slot, no other command but the slot's CREATE touches them. -/
theorem streamsAreAppendOnly : Obligations.StreamsAreAppendOnly := by
  unfold Obligations.StreamsAreAppendOnly
  intro i s t n sl sl' h hs hs' hcreate
  have hcases : (sl'.pcm = sl.pcm ∧ sl'.dump = sl.dump) ∨
      ∃ m b pcm dump, i = .run (.slot n) m b ∧ sl'.pcm = sl.pcm ++ pcm ∧ sl'.dump = sl.dump ++ dump := by
    rcases (exec_effect h).slot hs hs' with ⟨-, he⟩ | rfl
    · exact he.streams hcreate
    · exact .inl ⟨rfl, rfl⟩
  rcases hcases with ⟨hp, hd⟩ | ⟨m, b, pcm, dump, cmd, hp, hd⟩
  · exact ⟨⟨[], [], by simpa using hp, by simpa using hd⟩, fun _ => ⟨hp, hd⟩⟩
  · exact ⟨⟨pcm, dump, hp, hd⟩, fun hrun => absurd cmd (hrun m b)⟩

end Sys2Proof.Machine
end

section
/-! A write that keeps the host obligation on stamps keeps the queues in order (10_state.md R30,
70_reset_and_hazards.md R358). -/

namespace Sys2Proof.Machine

open Sys2Proof.Config

/-- A queue after an append: the event at its back, or as it was. -/
theorem Chip.get_queues_append (e : Event) (c : Chip) (id id' : QueueId) :
    (c.append e id).queues.get id' = if id' = id then c.queues.get id' ++ [e] else c.queues.get id' := by
  split
  · next h => rw [h, Chip.append_queues, Queues.get_set_self]
  · next h => rw [Chip.append_queues, Queues.get_set_other _ h]

/-- An append with a stamp not below those in its queue keeps every queue in order. -/
theorem Chip.append_ordered {c : Chip} (ho : c.queues.Ordered) {e : Event} {id : QueueId}
    (he : appendKeepsOrder (c.queues.get id) e.ts) : (c.append e id).queues.Ordered := by
  rw [Queues.ordered_iff] at ho ⊢
  intro id'
  rw [Chip.get_queues_append]
  split
  · next h =>
    subst h
    refine List.pairwise_append.mpr ⟨ho id', List.pairwise_singleton _ _, fun a ha b hb => ?_⟩
    rw [List.mem_singleton.mp hb]
    exact he a ha
  · exact ho id'

/-- A queue that takes a stamp takes it again behind an event with that stamp. -/
theorem Chip.append_keepsOrder {c : Chip} {e : Event} {id id' : QueueId}
    (he : appendKeepsOrder (c.queues.get id') e.ts) : appendKeepsOrder ((c.append e id).queues.get id') e.ts := by
  rw [Chip.get_queues_append]
  split
  · intro a ha
    rcases List.mem_append.mp ha with ha | ha
    · exact he a ha
    · rw [List.mem_singleton.mp ha]
  · exact he

/-- Appends of one event to queues that take its stamp keep every queue in order. -/
theorem Chip.foldl_append_ordered {e : Event} (ids : List QueueId) {c : Chip} (ho : c.queues.Ordered)
    (he : ∀ id ∈ ids, appendKeepsOrder (c.queues.get id) e.ts) :
    (ids.foldl (Chip.append e) c).queues.Ordered := by
  induction ids generalizing c with
  | nil => exact ho
  | cons id ids ih =>
    refine ih (Chip.append_ordered ho (he id List.mem_cons_self)) fun id' hid' => ?_
    exact Chip.append_keepsOrder (he id' (List.mem_cons_of_mem _ hid'))

/-- The host obligation on a write's stamp keeps every queue in order, under every design
(70_reset_and_hazards.md R358). -/
theorem Chip.write_ordered (P : Params) (D : Design) {c : Chip} (ho : c.queues.Ordered) {r : PortIndex} {m : Nat}
    (hm : c.writeInOrder D.decisions r m) (v : Byte) : (c.write P D r v m).queues.Ordered := by
  rcases Chip.write_cases P D c r v m with h | ⟨sh, i, b, h⟩ <;> rw [h]
  · exact ho
  · refine Chip.foldl_append_ordered _ ho fun id hid => ?_
    exact hm id ((D.decisions.writes.accept_sublist _ _).subset hid)

/-- The write commands by their port index (30_encoding.md R94). -/
theorem command_wr (P : Params) (D : Design) (r : PortIndex) (sel : ChipSel) (v : Byte) (m : Nat) :
    command P D (.wr r sel v m) = write P D sel r v m := by
  fin_cases r <;> rfl

/-- A write on a Live instance. -/
theorem exec_wr_live {s : State} {sel : ChipSel} {c : Chip} (h : s.chip? sel = some c) (r : PortIndex) (v : Byte) (m : Nat) :
    exec (.wr r sel v m) s = .next ((s.setChip sel (c.write hw design r v m)).ends design .write .done) := by
  rw [exec_eq, command_wr, write, State.onChip_live h rfl (by decide)]

/-- Settles O20: the write's events join the queues behind stamps that are not above theirs. -/
theorem writeKeepsStampOrder : Obligations.WriteKeepsStampOrder := by
  unfold Obligations.WriteKeepsStampOrder
  intro r s t n c c' v m hc ho hm ht hc'
  obtain ⟨sl, hl⟩ := State.liveAt_of_chip? hc
  rw [exec_wr_live hc] at ht
  cases ht
  have hx : some (c.write hw design r v m) = some c' := by
    rw [← hc', State.chip?, State.slot?_ends, ← State.chip?, State.chip?_setChip_self hl.slot]
  cases hx
  exact Chip.write_ordered _ design ho hm v

end Sys2Proof.Machine
end

section
/-! The invariant of the machine: it holds at power-on, and every step keeps it (10_state.md R47). -/

namespace Sys2Proof.Machine

open Sys2Proof.Config

/-! ## Generators -/

/-- The noise register never runs into zero: its last set bit feeds back (44_generators.md R262). -/
theorem shiftLfsr_ne_zero {v : BitVec 17} (h : v ≠ 0) : shiftLfsr v ≠ 0 := by
  intro hz
  have bit (k : Nat) (hk : k < 17) : (shiftLfsr v).getLsbD k = false := by
    rw [hz]
    exact BitVec.getLsbD_zero
  have upper (k : Nat) (h1 : 1 ≤ k) (h17 : k < 17) : v.getLsbD k = false := by
    have := bit (k - 1) (by omega)
    simp only [shiftLfsr, BitVec.getLsbD_or, Bool.or_eq_false_iff, BitVec.getLsbD_ushiftRight] at this
    rw [← this.1]
    congr 1
    omega
  have feedback : (v ^^^ v >>> 3).getLsbD 0 = false := by
    have := bit 16 (by omega)
    simpa [shiftLfsr] using this
  have lowest : v.getLsbD 0 = false := by
    rw [BitVec.getLsbD_xor, BitVec.getLsbD_ushiftRight, upper (3 + 0) (by omega) (by omega), Bool.xor_false] at feedback
    exact feedback
  refine h (BitVec.eq_of_getLsbD_eq fun k hk => ?_)
  refine Eq.trans ?_ BitVec.getLsbD_zero.symm
  rcases Nat.eq_zero_or_pos k with rfl | hpos
  · exact lowest
  · exact upper k hpos hk

/-- A freshly reset engine runs (10_state.md R42). -/
theorem engineReset_inv : (engineReset decisions).Inv := by
  unfold EngineState.Inv
  decide

/-- A tick of the generators keeps the noise register running. -/
theorem design_stepGenerators_inv (kind : EngineKind) (mute : BitVec 15) (x : RegFile) {e : EngineState} (h : e.Inv) :
    (design.model.stepGenerators kind mute x e).Inv := by
  rw [design_stepGenerators]
  split
  · unfold EngineState.Inv
    rcases stepGenerators_lfsr decisions x e with hl | hl <;> rw [hl]
    · exact h
    · exact shiftLfsr_ne_zero h
  · exact h

/-- An applied event leaves the noise register. -/
theorem design_onEvent_inv (kind : EngineKind) (r : Reg) (v : Byte) {e : EngineState} (h : e.Inv) :
    (design.model.onEvent kind r v e).Inv := by
  rw [design_onEvent, onEvent]
  split
  · split <;> exact h
  · exact h

/-! ## The walk -/

/-- What every event keeps of the engine state, the events of a walk keep. -/
theorem reactTo_induction {D : Design} {kind : EngineKind} {p : EngineState → Prop}
    (event : ∀ r v e, p e → p (D.model.onEvent kind r v e)) (l : List Taken) {e : EngineState} (h : p e) :
    p (reactTo D kind l e) := by
  induction l generalizing e with
  | nil => exact h
  | cons a l ih => exact ih (event _ _ _ h)

/-- The same of ApplyDue. -/
theorem applyDue_eng {D : Design} {kind : EngineKind} {p : EngineState → Prop}
    (event : ∀ r v e, p e → p (D.model.onEvent kind r v e)) (lim : Int) {w : Synth} (h : p w.eng) :
    p (applyDue D kind lim w).eng := by
  obtain ⟨l, -, he, -⟩ := applyDue_applied D kind lim w
  rw [he]
  exact reactTo_induction event l h

/-- What every event and every tick keep of the engine state, the ticks of a walk keep. -/
theorem walkTicks_eng {D : Design} {env : WalkEnv} {p : EngineState → Prop}
    (event : ∀ r v e, p e → p (D.model.onEvent env.kind r v e))
    (step : ∀ x e, p e → p (D.model.stepGenerators env.kind env.muteRep x e)) (k n : Nat) {w : Synth} (h : p w.eng) :
    p (walkTicks D env k n w).2.eng := by
  induction n generalizing k w with
  | zero => exact h
  | succ n ih => exact ih (k + 1) (step _ _ (applyDue_eng event _ h))

/-- A walk keeps the noise register running. -/
theorem walk_eng_inv (env : WalkEnv) (elapsed : Nat) {w : Synth} (h : w.eng.Inv) :
    (walk design env elapsed w).2.eng.Inv :=
  have event := fun r v e (he : EngineState.Inv e) => design_onEvent_inv env.kind r v he
  have step := fun x e (he : EngineState.Inv e) => design_stepGenerators_inv env.kind env.muteRep x he
  applyDue_eng event _ (walkTicks_eng event step 0 _ h)

/-- Applied events leave the queues no longer than they were. -/
theorem Applied.count_le {D : Design} {kind : EngineKind} {lim : Int} {l : List Taken} {w w' : Synth}
    (h : Applied D kind lim l w w') : w'.queues.count ≤ w.queues.count := by
  have len (id : QueueId) : (w'.queues.get id).length ≤ (w.queues.get id).length := by
    rw [h.queues id, List.length_append]
    omega
  exact Nat.add_le_add (Nat.add_le_add (len .tone) (len .noise)) (len .env)

/-! ## Samples -/

/-- A tick's sample fits, where the table is one that was built (42_volume_table.md R201). -/
theorem mixSample_fits (P : Params) (m : VolModel) (peak : Nat) (kind : EngineKind) (mute : BitVec 15) (x : RegFile)
    (e : EngineState) :
    FitsSigned sampleBits
      (design.model.mixSample kind (buildVolumeTable P decisions m peak) mute x e) := by
  rw [design_mixSample]
  split
  · rw [mixSample, read_buildVolumeTable]
    exact fitsSigned_narrow (by decide) _
  · decide

/-- Every engine's samples fit, where those of the ticks do (43_synthesis_engine.md R229, R231, R232). -/
theorem engineOut_fits {P : Params} (hP : P.FitSamples sampleBits) (kind : EngineKind) (filter : Nat) {s : List Sample}
    (hs : ∀ v ∈ s, FitsSigned sampleBits v) (k n : Nat) :
    ∀ v ∈ (engineOut P design kind filter s k n).1, FitsSigned sampleBits v := by
  have zero : FitsSigned sampleBits 0 := by decide
  cases kind with
  | pulse =>
    intro v hv
    obtain ⟨j, -, rfl⟩ := List.mem_map.mp hv
    rw [List.getD_eq_getElem?_getD]
    cases hj : s[j * k / n]? with
    | none => exact zero
    | some v => exact hs v (List.mem_of_getElem? hj)
  | stepBandlimited => exact hP.blepOut filter s k n
  | debugDump =>
    intro v hv
    rw [List.eq_of_mem_replicate hv]
    exact zero

/-- The samples of a RUN fit (10_state.md R43). -/
theorem Chip.engineRun_fits {P : Params} (hP : P.FitSamples sampleBits) (m : VolModel) (peak : Nat) (c : Chip)
    (e : EngineState) (elapsed : Nat) :
    ∀ v ∈ (c.engineRun P design (buildVolumeTable P decisions m peak) e elapsed).pcm, FitsSigned sampleBits v := by
  refine engineOut_fits hP _ _ (fun v hv => ?_) _ _
  obtain ⟨w, -, rfl⟩ := List.mem_map.mp hv
  exact mixSample_fits P m peak _ _ _ _

/-! ## Instances -/

section
variable {P : Params} {c : Chip}

/-- A clamped and adjusted rate lies in the range (45_mute_rate_clock.md R304). -/
theorem clamp_range {v lo hi : Nat} (h : lo ≤ hi) : lo ≤ clamp v lo hi ∧ clamp v lo hi ≤ hi := by
  unfold clamp
  split
  · exact ⟨le_refl _, h⟩
  · split
    · exact ⟨h, le_refl _⟩
    · omega

/-- The engine of a binding just set up, if there is one, is freshly reset. -/
theorem reboundBinding_inv (ok : Bool) :
    ∀ e, (reboundBinding (engineReset decisions) ok).engine? = some e → e.Inv := by
  intro e he
  cases ok with
  | false => cases he
  | true =>
    cases he
    exact engineReset_inv

/-- Counting drops stays within the width of the counter (10_state.md R33). -/
theorem countDrop_iterate_lt (bits n k : Nat) (h : n < 2 ^ bits) : (countDrop bits)^[k] n < 2 ^ bits := by
  induction k generalizing n with
  | zero => exact h
  | succ k ih =>
    refine ih _ ?_
    have : 0 < 2 ^ bits := by positivity
    unfold countDrop
    omega

/-- An append adds one event. -/
theorem Chip.append_count (e : Event) (c : Chip) (id : QueueId) :
    (c.append e id).queues.count = c.queues.count + 1 := by
  cases id <;> simp [Chip.append, Queues.count, Queues.set, Queues.get] <;> omega

/-- Appends take one slot for each event (10_state.md R32). -/
theorem Chip.foldl_append_count (e : Event) (ids : List QueueId) (c : Chip) :
    (ids.foldl (Chip.append e) c).queues.count = c.queues.count + ids.length := by
  induction ids generalizing c with
  | nil => rfl
  | cons id ids ih =>
    rw [List.foldl_cons, ih, Chip.append_count, List.length_cons]
    omega

/-- Enqueue keeps the invariant (40_register_write.md R132). -/
theorem Chip.Inv.enqueue (h : c.Inv P) (ids : List QueueId) (e : Event) : (c.enqueue P design ids e).Inv P := by
  have hu : (c.enqueue P design ids e).queues.count ≤ (c.enqueue P design ids e).poolUsed := by
    have := h.count_le_poolUsed
    simp only [Chip.enqueue, Chip.countDrops_queues, Chip.countDrops_poolUsed, Chip.foldl_append_count,
      Chip.foldl_append_poolUsed]
    omega
  have hp := Chip.enqueue_poolUsed_le h.poolUsed_le design ids e
  have ho : (c.enqueue P design ids e).overflowCount < 2 ^ overflowBits := by
    rw [Chip.enqueue, Chip.foldl_append_eq]
    exact countDrop_iterate_lt _ _ _ h.overflow_lt
  rw [Chip.enqueue_eq]
  exact { h with count_le_poolUsed := hu, poolUsed_le := hp, overflow_lt := ho }

/-- A write keeps the invariant. -/
theorem Chip.Inv.write (h : c.Inv P) (r : PortIndex) (v : Byte) (m : Nat) : (c.write P design r v m).Inv P := by
  rcases Chip.write_cases P design c r v m with hw | ⟨sh, i, b, hw⟩ <;> rw [hw]
  · exact h
  · have hsh : Chip.Inv P { c with sh := sh } := { h with }
    exact hsh.enqueue _ _

/-- CYCLEADJUST keeps the invariant (40_register_write.md R149). -/
theorem Chip.Inv.cycleAdjust (h : c.Inv P) (m : Nat) : (c.cycleAdjust design m).Inv P :=
  { h with
    count_le_poolUsed := (Queues.count_mapEvents _ _).le
    poolUsed_le := h.count_le_poolUsed.trans h.poolUsed_le }

/-- Engine setup keeps the invariant, whatever its answer: a rate in the range, the one clock, an engine freshly reset
or none (41_lifecycle.md R174, 45_mute_rate_clock.md R302). -/
theorem Chip.Inv.rebound (h : c.Inv P) (kind : EngineKind) {rate : Nat} (hr : P.rateMin ≤ rate ∧ rate ≤ P.rateMax)
    {clock : Nat} (hc : clock = P.clockHz) (ok : Bool) :
    Chip.Inv P { c with
      engineKind := kind, clockHz := clock, sampleRateHz := rate
      binding := reboundBinding (engineReset decisions) ok } :=
  { h with clock_eq := hc, rate_ge := hr.1, rate_le := hr.2, engine := reboundBinding_inv ok }

/-- The range of an effective rate (45_mute_rate_clock.md R301). -/
theorem Chip.effectiveRate_range (P : Params) (c : Chip) (hz : Nat) :
    P.rateMin ≤ c.effectiveRate P hz ∧ c.effectiveRate P hz ≤ P.rateMax := by
  have hc := clamp_range (v := hz) (P.rateMin_le_default.trans P.rateDefault_le_max)
  unfold Chip.effectiveRate
  cases c.binding.engine? with
  | none => exact hc
  | some _ => exact P.rateAdjust_range _ _ hc.1 hc.2

/-- A command on an instance, but RUN, RESET and CLEANUP, keeps its invariant. -/
theorem ChipUpdate.inv {i : Instr} {n : SlotNo} {c' : Chip} (h : ChipUpdate P design i n c c') (hc : c.Inv P) :
    c'.Inv P := by
  cases h with
  | write r v m => exact hc.write r v m
  | rebase m => exact hc.cycleAdjust m
  | configure _ _ hz kind ok =>
    have hr := clamp_range (v := hz.toNat) (P.rateMin_le_default.trans P.rateDefault_le_max)
    exact hc.rebound kind (P.rateAdjust_range _ _ hr.1 hr.2) rfl ok
  | mask => exact { hc with muteRep_eq := rfl }
  | rate hz => exact { hc with rate_ge := (c.effectiveRate_range P _).1, rate_le := (c.effectiveRate_range P _).2 }
  | engine _ kind ok =>
    exact hc.rebound kind (P.rateAdjust_range _ _ hc.rate_ge hc.rate_le) hc.clock_eq ok

/-- RESET keeps the invariant (41_lifecycle.md R173). -/
theorem Chip.Inv.reset (h : c.Inv P) : (c.reset design).Inv P :=
  { h with
    count_le_poolUsed := le_refl _
    poolUsed_le := Nat.zero_le _
    engine := fun e he => by
      rw [Chip.reset, Binding.engine?_afterReset, Option.map_eq_some_iff] at he
      obtain ⟨_, _, rfl⟩ := he
      exact engineReset_inv
    overflow_lt := by simp [Chip.reset] }

/-- RUN keeps the invariant: events only leave the queues, the noise register runs on (43_synthesis_engine.md R220). -/
theorem Chip.Inv.engineRun (h : c.Inv P) (t : VolTable) {e : EngineState} (he : e.Inv) (elapsed : Nat) :
    (c.engineRun P design t e elapsed).chip.Inv P := by
  obtain ⟨l, hl⟩ := walk_applied design (c.walkEnv t) elapsed (c.synth e)
  have hw : (walk design (c.walkEnv t) elapsed (c.synth e)).2.eng.Inv := walk_eng_inv _ _ he
  exact { h with
    count_le_poolUsed := hl.count_le.trans h.count_le_poolUsed
    engine := fun e' he' => by
      cases he'
      exact hw }

/-- A fresh instance, set up or not, meets the invariant where the defaults do (41_lifecycle.md R172). -/
theorem Global.Inv.blank {g : Global} (h : g.Inv P) : (Chip.blank P decisions g).Inv P where
  count_le_poolUsed := le_refl _
  poolUsed_le := Nat.zero_le _
  muteRep_eq := rfl
  clock_eq := rfl
  rate_ge := (P.rateAdjust_range _ _ h.rate_ge h.rate_le).1
  rate_le := (P.rateAdjust_range _ _ h.rate_ge h.rate_le).2
  engine := fun e he => by cases he
  overflow_lt := by simp [Chip.blank]

/-! ## Slots and `G` -/

/-- What the invariant says of one slot. -/
structure Slot.Sound (P : Params) (init : Bool) (sl : Slot) : Prop where
  live : ∀ c, sl.life = .live c → c.Inv P ∧ init = true
  samples : ∀ v ∈ sl.pcm, FitsSigned sampleBits v

/-- What a command makes of a sound slot, with `G` sound where it is initialised, is sound. -/
theorem SlotEffect.sound {i : Instr} {s : State} {n : SlotNo} {sl sl' : Slot} (h : SlotEffect P i s n sl sl')
    (hP : P.FitSamples sampleBits) (hg : s.g.init = true → s.g.Inv P) (hsl : sl.Sound P s.g.init) :
    sl'.Sound P s.g.init := by
  cases h with
  | kept => exact hsl
  | update c c' life upd =>
    obtain ⟨hc, hi⟩ := hsl.live c life
    exact ⟨fun _ h => Life.live.inj h ▸ ⟨upd.inv hc, hi⟩, hsl.samples⟩
  | restarted c _ _ life =>
    obtain ⟨hc, hi⟩ := hsl.live c life
    exact ⟨fun _ h => Life.live.inj h ▸ ⟨hc.reset, hi⟩, hsl.samples⟩
  | ran c e elapsed _ _ life bound =>
    obtain ⟨hc, hi⟩ := hsl.live c life
    refine ⟨fun _ h => Life.live.inj h ▸ ⟨hc.engineRun _ (hc.engine e bound) _, hi⟩, fun v hv => ?_⟩
    rcases List.mem_append.mp hv with hv | hv
    · exact hsl.samples v hv
    · rw [(hg hi).table_eq] at hv
      exact Chip.engineRun_fits hP _ _ c e elapsed v hv
  | created _ hi =>
    have hc := (hg hi).blank.rebound s.g.defEngine
      (P.rateAdjust_range s.g.defEngine _ (hg hi).rate_ge (hg hi).rate_le) rfl
    exact ⟨fun _ h => Life.live.inj h ▸ ⟨hc _, hi⟩, fun v hv => by cases hv⟩
  | destroyed => exact ⟨nofun, hsl.samples⟩

/-- A slot made Absent is sound where its samples are. -/
theorem Slot.Sound.absent {init init' : Bool} {sl : Slot} (h : sl.Sound P init) :
    Slot.Sound P init' { sl with life := .absent } :=
  ⟨nofun, h.samples⟩

/-- `G` as GLOBAL_INIT makes it is sound (41_lifecycle.md R170). -/
theorem Global.initial_inv (P : Params) : (Global.initial P design).Inv P :=
  ⟨rfl, P.rateMin_le_default, P.rateDefault_le_max, rfl⟩

/-- A selection leaves the table fully built for the model in force (42_volume_table.md R204). -/
theorem Global.Inv.selectModel {g : Global} (h : g.Inv P) (m : VolModel) : (g.selectModel P design m).Inv P := by
  rw [Global.selectModel_design]
  refine { h with table_eq := ?_ }
  simp only
  split
  · next hm => rw [hm, h.table_eq]
  · rfl

/-- A command keeps `G` sound once initialised. -/
theorem Effect.global_inv {i : Instr} {s t : State} (h : Effect P design i s t) (hg : s.g.init = true → s.g.Inv P)
    (hi : t.g.init = true) : t.g.Inv P := by
  cases h with
  | defaultMask _ _ _ _ _ _ _ _ g =>
    rw [g] at hi ⊢
    exact { hg hi with }
  | defaultRate _ _ _ allowed => cases allowed
  | defaultEngine _ _ _ _ _ _ _ g =>
    rw [g] at hi ⊢
    exact { hg hi with }
  | model _ _ m _ _ _ g =>
    rw [g] at hi ⊢
    exact (hg hi).selectModel m
  | opened _ _ _ g =>
    rw [g]
    exact Global.initial_inv P
  | closed _ _ _ g =>
    rw [g] at hi
    cases hi
  | _ => simp_all
end

/-! ## The machine -/

/-- The invariant of the machine, slot by slot. -/
theorem State.inv_iff {s : State} :
    s.Inv ↔ s.chips.length = hw.nchip ∧ (s.g.init = true → s.g.Inv hw) ∧
      ∀ n sl, s.slot? (.slot n) = some sl → sl.Sound hw s.g.init := by
  constructor
  · intro h
    have hlen : s.chips.length ≤ 255 := h.slots ▸ hw.nchip_le
    refine ⟨h.slots, h.global, fun n sl hs => ?_⟩
    have hmem := (State.mem_chips_iff hlen).mpr ⟨n, hs⟩
    exact ⟨fun c hc => h.live sl hmem c (Slot.chip?_eq_some.mpr hc), h.samples sl hmem⟩
  · rintro ⟨hn, hg, hs⟩
    have hlen : s.chips.length ≤ 255 := hn ▸ hw.nchip_le
    have sound (sl : Slot) (hmem : sl ∈ s.chips) : sl.Sound hw s.g.init := by
      obtain ⟨n, hsl⟩ := (State.mem_chips_iff hlen).mp hmem
      exact hs n sl hsl
    exact ⟨hn, hg, fun sl hmem c hc => (sound sl hmem).live c (Slot.chip?_eq_some.mp hc),
      fun sl hmem => (sound sl hmem).samples⟩

/-- The invariant rests on the slots and `G` alone. -/
theorem State.Inv.congr {s t : State} (h : s.Inv) (hc : t.chips = s.chips) (hg : t.g = s.g) : t.Inv where
  slots := hc ▸ h.slots
  global := hg ▸ h.global
  live := by rw [hc, hg]; exact h.live
  samples := hc ▸ h.samples

/-- Every command keeps the invariant. -/
theorem exec_inv {i : Instr} {s t : State} (h : exec i s = .next t) (hs : s.Inv) : t.Inv := by
  have he := exec_effect h
  obtain ⟨hn, hg, hsl⟩ := State.inv_iff.mp hs
  refine State.inv_iff.mpr ⟨he.length_chips.trans hn, he.global_inv hg, fun n sl' hs' => ?_⟩
  obtain ⟨sl, hsl₀⟩ : ∃ sl, s.slot? (.slot n) = some sl := by
    have hlt := (List.getElem?_eq_some_iff.mp hs').1
    rw [he.length_chips] at hlt
    exact ⟨s.chips[n.val], List.getElem?_eq_getElem hlt⟩
  rcases he.slot hsl₀ hs' with ⟨hi, hse⟩ | rfl
  · exact hi ▸ hse.sound hw_fits hg (hsl n sl hsl₀)
  · exact (hsl n sl hsl₀).absent

/-- The step of a reserved frame (30_encoding.md R97). -/
theorem step_of_fetch_reserved {s s' : State} {w : FrameBits} {why : Reserved} (h : fetch s = some (w, s'))
    (hw : decode w = .reserved why) : step s = .next (s'.raiseReserved design) := by
  simp [step, h, hw]

/-- A step: nothing is done to the slots and `G`, or a command is run on them (00_scope.md R10). -/
theorem step_cases {s t : State} (h : step s = .next t) :
    (t.chips = s.chips ∧ t.g = s.g) ∨
      ∃ (i : Instr) (rest : List FrameBits), exec i { s with cmds := rest } = .next t := by
  cases hc : s.cmds with
  | nil =>
    rw [step_of_fetch_none (fetch_of_cmds_nil hc)] at h
    cases h
    exact .inl ⟨rfl, rfl⟩
  | cons w rest =>
    have hf := fetch_of_cmds_cons hc
    cases hd : decode w with
    | command i => exact .inr ⟨i, rest, (step_of_fetch_command hf hd).symm.trans h⟩
    | reserved why =>
      rw [step_of_fetch_reserved hf hd] at h
      cases h
      exact .inl ⟨rfl, rfl⟩

/-- Settles O8: the port is no part of the invariant, and every command keeps it. -/
theorem stepKeepsInv : Obligations.StepKeepsInv := by
  unfold Obligations.StepKeepsInv
  intro s t hs h
  rcases step_cases h with ⟨hc, hg⟩ | ⟨i, rest, he⟩
  · exact hs.congr hc hg
  · exact exec_inv he (hs.congr rfl rfl)

/-- Settles O7: nothing is initialised, and every slot is Absent with empty streams. -/
theorem invAtPowerOn : Obligations.InvAtPowerOn := by
  unfold Obligations.InvAtPowerOn
  have absent (sl : Slot) (h : sl ∈ State.reset.chips) : sl = Slot.absent := List.eq_of_mem_replicate h
  refine ⟨List.length_replicate, nofun, fun sl hsl c hc => ?_, fun sl hsl v hv => ?_⟩
  · rw [absent sl hsl] at hc
    cases hc
  · rw [absent sl hsl] at hv
    cases hv

end Sys2Proof.Machine
end

section
/-! Non-interference of the instance slots: a command changes no slot but the one it names, and RUN reads no slot but its
own (20_memory.md R75). -/

namespace Sys2Proof.Machine

open Sys2Proof.Config

/-! ## What a command leaves of the other slots -/

/-- The write commands name the instance they write to (30_encoding.md R94). -/
@[simp] theorem handleOf_wr (r : PortIndex) (sel : ChipSel) (v : Byte) (m : Nat) :
    handleOf (.wr r sel v m) = some sel := by
  fin_cases r <;> rfl

/-- A command that changes a Live instance names its slot. -/
theorem ChipUpdate.handleOf_eq {P : Params} {D : Design} {i : Instr} {n : SlotNo} {c c' : Chip}
    (h : ChipUpdate P D i n c c') : handleOf i = some (.slot n) := by
  cases h with
  | write r v m cmd => rw [cmd, handleOf_wr]
  | rebase _ cmd => exact cmd ▸ rfl
  | configure _ _ _ _ _ cmd => exact cmd ▸ rfl
  | mask _ _ _ cmd => exact cmd ▸ rfl
  | rate _ cmd => exact cmd ▸ rfl
  | engine _ _ _ cmd => exact cmd ▸ rfl

/-- Unchanged slots are unchanged beside any one of them. -/
theorem SameOtherSlots.of_kept {s t : State} (hc : t.chips = s.chips) (n : SlotNo) : SameOtherSlots s t n where
  length := by rw [hc]
  slots := fun m _ => State.slot?_congr hc (.slot m)

/-- A change of slot `n` leaves the others. -/
theorem SameOtherSlots.of_modify {s t : State} {n : SlotNo} {f : Slot → Slot}
    (hc : t.chips = (s.modifySlot (.slot n) f).chips) : SameOtherSlots s t n where
  length := by rw [hc, State.length_modifySlot]
  slots := fun m hm => by
    have hne : ChipSel.slot m ≠ .slot n := by simpa using hm
    rw [State.slot?_congr hc, State.slot?_modifySlot_other s hne]

/-- A command that names slot `n` leaves the other slots, under every configuration. -/
theorem Effect.sameOtherSlots {P : Params} {D : Design} {i : Instr} {s t : State} {n : SlotNo} (h : Effect P D i s t)
    (hi : handleOf i = some (.slot n)) : SameOtherSlots s t n := by
  have named {j : Instr} {m : SlotNo} (cmd : i = j) (hm : handleOf j = some (.slot m)) : m = n := by
    subst cmd
    simpa using hm.symm.trans hi
  cases h with
  | quiet hc => exact .of_kept hc n
  | defaultMask _ _ _ _ _ _ _ hc => exact .of_kept hc n
  | defaultRate _ _ _ _ hc => exact .of_kept hc n
  | defaultEngine _ _ _ _ _ _ hc => exact .of_kept hc n
  | model _ _ _ _ _ hc => exact .of_kept hc n
  | update m _ _ _ _ upd hc => exact named rfl upd.handleOf_eq ▸ .of_modify hc
  | restarted m _ _ _ cmd _ hc => exact named cmd rfl ▸ .of_modify hc
  | ran m _ _ _ _ _ _ cmd _ _ hc =>
    rw [State.emit_setChip] at hc
    exact named cmd rfl ▸ .of_modify hc
  | created m _ cmd _ _ hc => exact named cmd rfl ▸ .of_modify hc
  | destroyed m _ _ cmd _ hc => exact named cmd rfl ▸ .of_modify hc
  | opened cmd =>
    rw [cmd] at hi
    cases hi
  | closed cmd =>
    rw [cmd] at hi
    cases hi

/-- Settles O12: every effect of a command that names a slot is confined to that slot. -/
theorem otherSlotsUntouched : Obligations.OtherSlotsUntouched := by
  unfold Obligations.OtherSlotsUntouched
  intro i n s t hi h
  exact (exec_effect h).sameOtherSlots hi

/-! ## What RUN reads -/

/-- Two states show the same slot under a handle, and the same answer. -/
structure AgreeAt (sel : ChipSel) (s t : State) : Prop where
  slot : s.slot? sel = t.slot? sel
  resp : s.resp = t.resp

section
variable {s₁ s₂ : State} {sel : ChipSel}

/-- One ending of a command keeps the slot two states agree on, and gives both one answer. -/
theorem AgreeAt.ends (hs : s₁.slot? sel = s₂.slot? sel) (D : Design) (cmd : CommandKind) (e : Ending)
    (r0 r1 r2 : Word) : AgreeAt sel (s₁.ends D cmd e r0 r1 r2) (s₂.ends D cmd e r0 r1 r2) where
  slot := by rw [State.slot?_ends, State.slot?_ends, hs]
  resp := by rw [State.ends_resp, State.ends_resp]

/-- The checks of a command on an instance read that instance alone: they come out alike in two states that agree on its
slot. -/
theorem AgreeAt.onChip (hs : s₁.slot? sel = s₂.slot? sel) (D : Design) (cmd : CommandKind) (f : Failing)
    {body₁ body₂ : Chip → State} (hbody : ∀ c, AgreeAt sel (body₁ c) (body₂ c)) :
    AgreeAt sel (s₁.onChip D cmd sel f body₁) (s₂.onChip D cmd sel f body₂) := by
  have hc : s₁.chip? sel = s₂.chip? sel := by rw [State.chip?, State.chip?, hs]
  simp only [State.onChip, State.guarded, State.failing, hc]
  split
  · exact .ends hs _ _ _ _ _ _
  · cases s₂.chip? sel with
    | none => exact .ends hs _ _ _ _ _ _
    | some c => exact hbody c

/-- RUN reads the table and its own slot, under every configuration (43_synthesis_engine.md R220). -/
theorem run_agreeAt (P : Params) (D : Design) (ht : s₁.g.volTable = s₂.g.volTable) (hs : s₁.slot? sel = s₂.slot? sel)
    (elapsed : Nat) (bufv : Bool) : AgreeAt sel (run P D sel elapsed bufv s₁) (run P D sel elapsed bufv s₂) := by
  refine .onChip hs D _ _ fun c => ?_
  cases c.binding.engine? with
  | none => exact .ends hs _ _ _ _ _ _
  | some e =>
    simp only [ht]
    refine .ends ?_ _ _ _ _ _ _
    rw [State.slot?_emit_self, State.slot?_emit_self, State.slot?_setChip_self, State.slot?_setChip_self, hs]
end

/-- Settles O31: what RUN does rests on the table and on the slot it names. -/
theorem runIgnoresOtherInstances : Obligations.RunIgnoresOtherInstances := by
  unfold Obligations.RunIgnoresOtherInstances
  intro s₁ s₂ t₁ t₂ n elapsed bufv ht hs h₁ h₂
  cases h₁
  cases h₂
  obtain ⟨hslot, hresp⟩ := run_agreeAt hw design ht hs elapsed bufv
  exact ⟨hslot, hresp⟩

end Sys2Proof.Machine
end

section
/-! The frame and the command it carries: each format read back, the opcode map case by case, and what follows for the
decoder, the encoder and the reserved frames (30_encoding.md R90, R92, R94, R97). -/

namespace Sys2Proof

/-! ## Fields of a word -/

/-- The bits from `k` up are zero exactly below `2 ^ k`. -/
theorem extract_high_eq_zero_iff {n k m : Nat} (h : n ≤ k + m) (w : BitVec n) :
    w.extractLsb' k m = 0 ↔ w.toNat < 2 ^ k := by
  have hm : w.toNat / 2 ^ k < 2 ^ m := by
    rw [Nat.div_lt_iff_lt_mul (by positivity), ← pow_add, add_comm m k]
    exact w.isLt.trans_le (Nat.pow_le_pow_right (by decide) h)
  rw [← BitVec.toNat_inj, BitVec.extractLsb'_toNat, Nat.shiftRight_eq_div_pow, Nat.mod_eq_of_lt hm]
  simp

/-- A bit from `k` up is 1 exactly from `2 ^ k` on. -/
theorem extract_high_ne_zero_iff {n k m : Nat} (h : n ≤ k + m) (w : BitVec n) :
    ¬w.extractLsb' k m = 0 ↔ 2 ^ k ≤ w.toNat := by
  rw [extract_high_eq_zero_iff h, not_lt]

/-- An operand word holds a byte: bits 31:8 are zero, bits 7:0 are the byte (30_encoding.md R92, format W). -/
theorem setWidth_eq_iff {a : Word} {v : Byte} :
    v.setWidth 32 = a ↔ a.extractLsb' 8 24 = 0 ∧ a.extractLsb' 0 8 = v := by
  constructor
  · rintro rfl
    exact ⟨setWidth_extract_high v, setWidth_extract_low v⟩
  · rintro ⟨h, rfl⟩
    have ha : a.toNat < 2 ^ 8 := (extract_high_eq_zero_iff (by decide) a).mp h
    apply BitVec.eq_of_toNat_eq
    simp [BitVec.extractLsb'_toNat]
    omega

/-- An operand word holds a span: bit 31 is zero, bits 30:0 are the span (30_encoding.md R95). -/
theorem ofNat_eq_iff {b : Word} {n : Nat} :
    n < 2 ^ 31 ∧ BitVec.ofNat 32 n = b ↔ b.extractLsb' 31 1 = 0 ∧ (b.extractLsb' 0 31).toNat = n := by
  constructor
  · rintro ⟨h, rfl⟩
    exact ⟨ofNat_extract_high h, ofNat_extract_span h⟩
  · rintro ⟨h, rfl⟩
    have hb : b.toNat < 2 ^ 31 := (extract_high_eq_zero_iff (by decide) b).mp h
    refine ⟨BitVec.isLt _, BitVec.eq_of_toNat_eq ?_⟩
    simp [BitVec.extractLsb'_toNat]
    omega

/-- A BUFV bit holds a truth value. -/
theorem ofBool_eq_iff {b : Bool} {v : BitVec 1} : BitVec.ofBool b = v ↔ (v == 1) = b := by
  revert v b
  decide

/-- A CHIP field holds a handle (30_encoding.md R92). -/
theorem fieldOfChip_eq_iff {sel : ChipSel} {v : BitVec 8} : fieldOfChip sel = v ↔ chipOfField v = sel := by
  constructor
  · rintro rfl
    exact chipOfField_fieldOfChip sel
  · rintro rfl
    exact fieldOfChip_chipOfField v

/-- The number of an opcode is that opcode. -/
theorem Frame.opc_eq {f : Frame} {n : Nat} (h : f.opc.toNat = n) : f.opc = BitVec.ofNat 8 n := by
  rw [← h, BitVec.ofNat_toNat, BitVec.setWidth_eq]

/-! ## The formats read back -/

/-- The frames with the given operand words, handle and BUFV. -/
theorem frameOf_eq_iff {f : Frame} {sel : ChipSel} {a b c : Word} {v : BitVec 1} :
    frameOf f.opc sel a b c v = f ↔
      v = f.bufv ∧ f.mbzHigh = 0 ∧ f.mbzLow = 0 ∧ chipOfField f.chip = sel ∧ a = f.a ∧ b = f.b ∧ c = f.c := by
  rw [← fieldOfChip_eq_iff]
  cases f
  simp only [frameOf, Frame.mk.injEq, true_and]
  constructor
  · rintro ⟨hs, hh, hv, hl, ha, hb, hc⟩
    exact ⟨hv, hh.symm, hl.symm, hs, ha, hb, hc⟩
  · rintro ⟨hv, hh, hl, hs, ha, hb, hc⟩
    exact ⟨hs, hh.symm, hv, hl.symm, ha, hb, hc⟩

section
variable {f : Frame}

/-- The header's must-be-zero bits are zero (30_encoding.md R92). -/
theorem Frame.headerZero_iff : f.headerZero = true ↔ f.mbzHigh = 0 ∧ f.mbzLow = 0 := by
  simp [Frame.headerZero]

/-- A frame passes its checks: BUFV and the header's must-be-zero bits are zero, and so are those of the format. -/
theorem Frame.checked_eq_command {ok : Bool} {i j : Instr} :
    f.checked ok i = .command j ↔ f.bufv = 0 ∧ f.mbzHigh = 0 ∧ f.mbzLow = 0 ∧ ok = true ∧ i = j := by
  unfold Frame.checked
  split
  · simp_all
  · split <;> simp_all [Frame.headerZero_iff]

/-- A frame fails its checks: a must-be-zero bit of the header or of the format is 1, or BUFV is. -/
theorem Frame.checked_reserved_iff {ok : Bool} {i : Instr} :
    (∃ why, f.checked ok i = .reserved why) ↔ f.mbzHigh ≠ 0 ∨ f.mbzLow ≠ 0 ∨ ok = false ∨ f.bufv ≠ 0 := by
  unfold Frame.checked
  split
  · simp_all
  · split
    · simp_all [Frame.headerZero]
    · simp_all [Frame.headerZero]
      tauto

/-- The commands of a format-W frame. -/
theorem Frame.formatW_eq_command {k : ChipSel → Byte → Nat → Instr} {i : Instr} :
    f.formatW k = .command i ↔ ∃ sel v m, k sel v m = i ∧ m < 2 ^ 31 ∧ frameW f.opc sel v m = f := by
  simp only [Frame.formatW, Frame.checked_eq_command, frameW, frameOf_eq_iff, Bool.and_eq_true, beq_iff_eq]
  constructor
  · rintro ⟨hv, hh, hl, ⟨⟨ha, hb⟩, hc⟩, hi⟩
    obtain ⟨hm, hb'⟩ := ofNat_eq_iff.mpr ⟨hb, rfl⟩
    exact ⟨_, _, _, hi, hm, hv.symm, hh, hl, rfl, setWidth_eq_iff.mpr ⟨ha, rfl⟩, hb', hc.symm⟩
  · rintro ⟨sel, v, m, rfl, hm, hv, hh, hl, rfl, ha, hb, hc⟩
    obtain ⟨ha', rfl⟩ := setWidth_eq_iff.mp ha
    obtain ⟨hb', rfl⟩ := ofNat_eq_iff.mp ⟨hm, hb⟩
    exact ⟨hv.symm, hh, hl, ⟨⟨ha', hb'⟩, hc.symm⟩, rfl⟩

/-- The operand words of format N: a span and two zero words. -/
theorem Frame.zeroN_iff : f.zeroN = true ↔ f.a.extractLsb' 31 1 = 0 ∧ f.b = 0 ∧ f.c = 0 := by
  simp [Frame.zeroN, and_assoc]

/-- The commands of a format-N frame. -/
theorem Frame.formatN_eq_command {k : ChipSel → Nat → Instr} {i : Instr} :
    f.formatN k = .command i ↔
      ∃ sel m, k sel m = i ∧ m < 2 ^ 31 ∧ frameOf f.opc sel (BitVec.ofNat 32 m) 0 0 = f := by
  simp only [Frame.formatN, Frame.checked_eq_command, Frame.zeroN_iff, frameOf_eq_iff]
  constructor
  · rintro ⟨hv, hh, hl, ⟨ha, hb, hc⟩, hi⟩
    obtain ⟨hm, ha'⟩ := ofNat_eq_iff.mpr ⟨ha, rfl⟩
    exact ⟨_, _, hi, hm, hv.symm, hh, hl, rfl, ha', hb.symm, hc.symm⟩
  · rintro ⟨sel, m, rfl, hm, hv, hh, hl, rfl, ha, hb, hc⟩
    obtain ⟨ha', rfl⟩ := ofNat_eq_iff.mp ⟨hm, ha⟩
    exact ⟨hv.symm, hh, hl, ⟨ha', hb.symm, hc.symm⟩, rfl⟩

/-- The commands of a RUN frame: format N, and BUFV may be set. -/
theorem Frame.formatRun_eq_command {i : Instr} :
    f.formatRun = .command i ↔ ∃ sel m b, .run sel m b = i ∧ m < 2 ^ 31 ∧
      frameOf f.opc sel (BitVec.ofNat 32 m) 0 0 (BitVec.ofBool b) = f := by
  simp only [Frame.formatRun, ite_eq_iff, Bool.and_eq_true, Frame.headerZero_iff, Frame.zeroN_iff, Decoded.command.injEq,
    reduceCtorEq, and_false, or_false, frameOf_eq_iff, ofBool_eq_iff]
  constructor
  · rintro ⟨⟨⟨hh, hl⟩, ha, hb, hc⟩, hi⟩
    obtain ⟨hm, ha'⟩ := ofNat_eq_iff.mpr ⟨ha, rfl⟩
    exact ⟨_, _, _, hi, hm, rfl, hh, hl, rfl, ha', hb.symm, hc.symm⟩
  · rintro ⟨sel, m, b, rfl, hm, rfl, hh, hl, rfl, ha, hb, hc⟩
    obtain ⟨ha', rfl⟩ := ofNat_eq_iff.mp ⟨hm, ha⟩
    exact ⟨⟨⟨hh, hl⟩, ha', hb.symm, hc.symm⟩, rfl⟩

/-- The commands of a format-P frame. -/
theorem Frame.formatP_eq_command {k : ChipSel → Word → Word → Word → Instr} {i : Instr} :
    f.formatP k = .command i ↔ ∃ sel a b c, k sel a b c = i ∧ frameOf f.opc sel a b c = f := by
  simp only [Frame.formatP, Frame.checked_eq_command, frameOf_eq_iff]
  constructor
  · rintro ⟨hv, hh, hl, -, hi⟩
    exact ⟨_, _, _, _, hi, hv.symm, hh, hl, rfl, rfl, rfl, rfl⟩
  · rintro ⟨sel, a, b, c, rfl, hv, hh, hl, rfl, rfl, rfl, rfl⟩
    exact ⟨hv.symm, hh, hl, trivial, rfl⟩

/-- The commands of a format-Z frame. -/
theorem Frame.formatZ_eq_command {k : ChipSel → Instr} {i : Instr} :
    f.formatZ k = .command i ↔ ∃ sel, k sel = i ∧ frameOf f.opc sel 0 0 0 = f := by
  simp only [Frame.formatZ, Frame.checked_eq_command, frameOf_eq_iff, Bool.and_eq_true, beq_iff_eq]
  constructor
  · rintro ⟨hv, hh, hl, ⟨⟨ha, hb⟩, hc⟩, hi⟩
    exact ⟨_, hi, hv.symm, hh, hl, rfl, ha.symm, hb.symm, hc.symm⟩
  · rintro ⟨sel, rfl, hv, hh, hl, rfl, ha, hb, hc⟩
    exact ⟨hv.symm, hh, hl, ⟨⟨ha.symm, hb.symm⟩, hc.symm⟩, rfl⟩

/-- The command of a global frame: format Z with the null handle. -/
theorem Frame.formatGlobal_eq_command {i j : Instr} :
    f.formatGlobal i = .command j ↔ i = j ∧ frameOf f.opc .null 0 0 0 = f := by
  have hnull : f.chip = 0xFF ↔ chipOfField f.chip = .null := eq_comm.trans (fieldOfChip_eq_iff (sel := .null))
  unfold Frame.formatGlobal
  split
  · next h =>
    have hf : frameOf f.opc .null 0 0 0 ≠ f := fun hf => h (hf ▸ rfl)
    exact ⟨nofun, fun hj => absurd hj.2 hf⟩
  · next h =>
    have hs : chipOfField f.chip = .null := hnull.mp (not_not.mp h)
    rw [Frame.formatZ_eq_command]
    constructor
    · rintro ⟨sel, rfl, hf⟩
      obtain ⟨-, -, -, hs', -⟩ := frameOf_eq_iff.mp hf
      obtain rfl : .null = sel := hs.symm.trans hs'
      exact ⟨rfl, hf⟩
    · rintro ⟨rfl, hf⟩
      exact ⟨.null, rfl, hf⟩

/-- The commands of a format-M frame. -/
theorem Frame.formatM_eq_command {k : ChipSel → Word → Word → Instr} {i : Instr} :
    f.formatM k = .command i ↔ ∃ sel a b, k sel a b = i ∧ frameOf f.opc sel a b 0 = f := by
  simp only [Frame.formatM, Frame.checked_eq_command, frameOf_eq_iff, beq_iff_eq]
  constructor
  · rintro ⟨hv, hh, hl, hc, hi⟩
    exact ⟨_, _, _, hi, hv.symm, hh, hl, rfl, rfl, rfl, hc.symm⟩
  · rintro ⟨sel, a, b, rfl, hv, hh, hl, rfl, rfl, rfl, hc⟩
    exact ⟨hv.symm, hh, hl, hc.symm, rfl⟩

/-- The commands of a format-I frame. -/
theorem Frame.formatI_eq_command {k : ChipSel → Word → Instr} {i : Instr} :
    f.formatI k = .command i ↔ ∃ sel a, k sel a = i ∧ frameOf f.opc sel a 0 0 = f := by
  simp only [Frame.formatI, Frame.checked_eq_command, frameOf_eq_iff, Bool.and_eq_true, beq_iff_eq]
  constructor
  · rintro ⟨hv, hh, hl, ⟨hb, hc⟩, hi⟩
    exact ⟨_, _, hi, hv.symm, hh, hl, rfl, rfl, hb.symm, hc.symm⟩
  · rintro ⟨sel, a, rfl, hv, hh, hl, rfl, rfl, hb, hc⟩
    exact ⟨hv.symm, hh, hl, ⟨hb.symm, hc.symm⟩, rfl⟩

end

/-! ## Decoder and encoder -/

/-- The decoder undoes the encoder on well-formed commands. -/
theorem Frame.decode_frame {i : Instr} (h : i.wf = true) : i.frame.decode = .command i := by
  cases i with
  | wr0 sel v m | wr1 sel v m | wr2 sel v m | wr3 sel v m | wr4 sel v m | wr5 sel v m | wr6 sel v m | wr7 sel v m
    | wr8 sel v m | wr9 sel v m | wr10 sel v m | wr11 sel v m | wr12 sel v m | wr13 sel v m | wr14 sel v m
    | wr15 sel v m => exact Frame.formatW_eq_command.mpr ⟨sel, v, m, rfl, of_decide_eq_true h, rfl⟩
  | run sel m b => exact Frame.formatRun_eq_command.mpr ⟨sel, m, b, rfl, of_decide_eq_true h, rfl⟩
  | cycleAdjust sel m | reset sel m | bufSize sel m =>
    exact Frame.formatN_eq_command.mpr ⟨sel, m, rfl, of_decide_eq_true h, rfl⟩
  | configure sel a b c => exact Frame.formatP_eq_command.mpr ⟨sel, a, b, c, rfl, rfl⟩
  | cleanup sel | create sel => exact Frame.formatZ_eq_command.mpr ⟨sel, rfl, rfl⟩
  | setActive sel a b => exact Frame.formatM_eq_command.mpr ⟨sel, a, b, rfl, rfl⟩
  | setRate sel a | setEngine sel a | setVolModel sel a => exact Frame.formatI_eq_command.mpr ⟨sel, a, rfl, rfl⟩
  | globalInit | globalShutdown => exact Frame.formatGlobal_eq_command.mpr ⟨rfl, rfl⟩

/-- The encoder undoes the decoder, which yields well-formed commands alone. -/
theorem Frame.frame_of_decode {f : Frame} {i : Instr} (hd : f.decode = .command i) : i.frame = f ∧ i.wf = true := by
  unfold Frame.decode at hd
  split at hd
  case h_1 h | h_2 h | h_3 h | h_4 h | h_5 h | h_6 h | h_7 h | h_8 h | h_9 h | h_10 h | h_11 h | h_12 h | h_13 h | h_14 h
      | h_15 h | h_16 h =>
    obtain ⟨sel, v, m, rfl, hm, hf⟩ := Frame.formatW_eq_command.mp hd
    exact ⟨by rwa [Frame.opc_eq h] at hf, decide_eq_true hm⟩
  case h_17 h =>
    obtain ⟨sel, m, b, rfl, hm, hf⟩ := Frame.formatRun_eq_command.mp hd
    exact ⟨by rwa [Frame.opc_eq h] at hf, decide_eq_true hm⟩
  case h_18 h | h_19 h | h_20 h =>
    obtain ⟨sel, m, rfl, hm, hf⟩ := Frame.formatN_eq_command.mp hd
    exact ⟨by rwa [Frame.opc_eq h] at hf, decide_eq_true hm⟩
  case h_21 h =>
    obtain ⟨sel, a, b, c, rfl, hf⟩ := Frame.formatP_eq_command.mp hd
    exact ⟨by rwa [Frame.opc_eq h] at hf, rfl⟩
  case h_22 h | h_23 h =>
    obtain ⟨sel, rfl, hf⟩ := Frame.formatZ_eq_command.mp hd
    exact ⟨by rwa [Frame.opc_eq h] at hf, rfl⟩
  case h_24 h =>
    obtain ⟨sel, a, b, rfl, hf⟩ := Frame.formatM_eq_command.mp hd
    exact ⟨by rwa [Frame.opc_eq h] at hf, rfl⟩
  case h_25 h | h_26 h | h_27 h =>
    obtain ⟨sel, a, rfl, hf⟩ := Frame.formatI_eq_command.mp hd
    exact ⟨by rwa [Frame.opc_eq h] at hf, rfl⟩
  case h_28 h | h_29 h =>
    obtain ⟨rfl, hf⟩ := Frame.formatGlobal_eq_command.mp hd
    exact ⟨by rwa [Frame.opc_eq h] at hf, rfl⟩
  case h_30 => cases hd

/-- Settles O1: the frame's fields are read back, and each command is read back from its format. -/
theorem decodeOfEncode : Obligations.DecodeOfEncode := by
  unfold Obligations.DecodeOfEncode
  intro i h
  rw [decode, encode, Frame.ofBits_toBits]
  exact Frame.decode_frame h

/-- Settles O2: each format is read back, and a frame is laid out from its own fields. -/
theorem encodeOfDecode : Obligations.EncodeOfDecode := by
  unfold Obligations.EncodeOfDecode
  intro w i h
  obtain ⟨hf, hw⟩ := Frame.frame_of_decode h
  exact ⟨by rw [encode, hf, Frame.toBits_ofBits], hw⟩

/-! ## Reserved frames -/

section
variable {f : Frame}

/-- The reserved frames of format W. -/
theorem Frame.formatW_reserved_iff {k : ChipSel → Byte → Nat → Instr} :
    (∃ why, f.formatW k = .reserved why) ↔ f.mbzHigh ≠ 0 ∨ f.mbzLow ≠ 0 ∨
      (2 ^ 8 ≤ f.a.toNat ∨ 2 ^ 31 ≤ f.b.toNat ∨ f.c ≠ 0) ∨ f.bufv ≠ 0 := by
  rw [Frame.formatW, Frame.checked_reserved_iff, ← extract_high_ne_zero_iff (m := 24) (by decide) f.a,
    ← extract_high_ne_zero_iff (m := 1) (by decide) f.b]
  simp [imp_iff_not_or, or_assoc]

/-- The operand words that format N reserves. -/
theorem Frame.zeroN_eq_false : f.zeroN = false ↔ 2 ^ 31 ≤ f.a.toNat ∨ f.b ≠ 0 ∨ f.c ≠ 0 := by
  rw [Frame.zeroN, ← extract_high_ne_zero_iff (m := 1) (by decide) f.a]
  simp [imp_iff_not_or, or_assoc]

/-- The reserved frames of format N. -/
theorem Frame.formatN_reserved_iff {k : ChipSel → Nat → Instr} :
    (∃ why, f.formatN k = .reserved why) ↔ f.mbzHigh ≠ 0 ∨ f.mbzLow ≠ 0 ∨
      (2 ^ 31 ≤ f.a.toNat ∨ f.b ≠ 0 ∨ f.c ≠ 0) ∨ f.bufv ≠ 0 := by
  rw [Frame.formatN, Frame.checked_reserved_iff, Frame.zeroN_eq_false]

/-- The reserved frames of RUN: BUFV is free. -/
theorem Frame.formatRun_reserved_iff : (∃ why, f.formatRun = .reserved why) ↔ f.mbzHigh ≠ 0 ∨ f.mbzLow ≠ 0 ∨
    (2 ^ 31 ≤ f.a.toNat ∨ f.b ≠ 0 ∨ f.c ≠ 0) := by
  rw [← Frame.zeroN_eq_false, Frame.formatRun]
  split <;> simp_all [Frame.headerZero, imp_iff_not_or, or_assoc]

/-- The reserved frames of format P. -/
theorem Frame.formatP_reserved_iff {k : ChipSel → Word → Word → Word → Instr} :
    (∃ why, f.formatP k = .reserved why) ↔ f.mbzHigh ≠ 0 ∨ f.mbzLow ≠ 0 ∨ f.bufv ≠ 0 := by
  simp [Frame.formatP, Frame.checked_reserved_iff]

/-- The reserved frames of format Z. -/
theorem Frame.formatZ_reserved_iff {k : ChipSel → Instr} :
    (∃ why, f.formatZ k = .reserved why) ↔ f.mbzHigh ≠ 0 ∨ f.mbzLow ≠ 0 ∨
      (f.a ≠ 0 ∨ f.b ≠ 0 ∨ f.c ≠ 0) ∨ f.bufv ≠ 0 := by
  simp [Frame.formatZ, Frame.checked_reserved_iff, imp_iff_not_or, or_assoc]

/-- The reserved frames of the global commands: CHIP is fixed. -/
theorem Frame.formatGlobal_reserved_iff {i : Instr} :
    (∃ why, f.formatGlobal i = .reserved why) ↔ f.mbzHigh ≠ 0 ∨ f.mbzLow ≠ 0 ∨
      (f.a ≠ 0 ∨ f.b ≠ 0 ∨ f.c ≠ 0) ∨ f.bufv ≠ 0 ∨ f.chip ≠ 0xFF := by
  unfold Frame.formatGlobal
  split
  · next h => exact iff_of_true ⟨_, rfl⟩ (by tauto)
  · next h => simp [Frame.formatZ_reserved_iff, not_not.mp h]

/-- The reserved frames of format M. -/
theorem Frame.formatM_reserved_iff {k : ChipSel → Word → Word → Instr} :
    (∃ why, f.formatM k = .reserved why) ↔ f.mbzHigh ≠ 0 ∨ f.mbzLow ≠ 0 ∨ f.c ≠ 0 ∨ f.bufv ≠ 0 := by
  simp [Frame.formatM, Frame.checked_reserved_iff]

/-- The reserved frames of format I. -/
theorem Frame.formatI_reserved_iff {k : ChipSel → Word → Instr} :
    (∃ why, f.formatI k = .reserved why) ↔ f.mbzHigh ≠ 0 ∨ f.mbzLow ≠ 0 ∨ (f.b ≠ 0 ∨ f.c ≠ 0) ∨ f.bufv ≠ 0 := by
  simp [Frame.formatI, Frame.checked_reserved_iff, imp_iff_not_or]

end

/-- The decoder rejects a frame exactly where the rule does, format by format (30_encoding.md R97). -/
theorem Frame.decode_reserved_iff (f : Frame) : (∃ why, f.decode = .reserved why) ↔ reservedByRule f := by
  unfold Frame.decode
  split
  case h_1 h | h_2 h | h_3 h | h_4 h | h_5 h | h_6 h | h_7 h | h_8 h | h_9 h | h_10 h | h_11 h | h_12 h | h_13 h | h_14 h
      | h_15 h | h_16 h => simp [reservedByRule, h, Frame.formatW_reserved_iff]
  case h_17 h => simp [reservedByRule, h, Frame.formatRun_reserved_iff]
  case h_18 h | h_19 h | h_20 h => simp [reservedByRule, h, Frame.formatN_reserved_iff]
  case h_21 h => simp [reservedByRule, h, Frame.formatP_reserved_iff]
  case h_22 h | h_23 h => simp [reservedByRule, h, Frame.formatZ_reserved_iff]
  case h_24 h => simp [reservedByRule, h, Frame.formatM_reserved_iff]
  case h_25 h | h_26 h | h_27 h => simp [reservedByRule, h, Frame.formatI_reserved_iff]
  case h_28 h | h_29 h => simp [reservedByRule, h, Frame.formatGlobal_reserved_iff]
  case h_30 =>
    have h : 0x1D ≤ f.opc.toNat := by grind
    simp [reservedByRule, h]

end Sys2Proof

namespace Sys2Proof.Machine

/-- Settles O3: format by format, the decoder rejects what the rule reserves, and a rejected frame fails its command. -/
theorem reservedFrames : Obligations.ReservedFrames := by
  unfold Obligations.ReservedFrames
  have rejects (w : FrameBits) : (∃ why, decode w = .reserved why) ↔ reservedByRule (Frame.ofBits w) :=
    Frame.decode_reserved_iff (Frame.ofBits w)
  refine ⟨rejects, fun s w rest hs hw => ?_⟩
  obtain ⟨why, hd⟩ := (rejects w).mpr hw
  rw [step_of_fetch_reserved (fetch_of_cmds_cons hs) hd]
  rfl

end Sys2Proof.Machine
end

section
/-! What a dead handle does to a command, and the two records handed to the host, field by field (30_encoding.md R93, R96,
R102). -/

namespace Sys2Proof.Machine

open Sys2Proof.Config

/-! ## Dead handles -/

/-- A command on an instance fails without one (30_encoding.md R96). -/
theorem State.onChip_eq_failedWith {s : State} {sel : ChipSel} (h : s.chip? sel = none) (cmd : CommandKind) (f : Failing)
    (body : Chip → State) : s.onChip design cmd sel f body = s.failedWith .eInval :=
  State.onChip_dead h cmd f body

/-- A setter fails with a dead handle that is not null (30_encoding.md R96). -/
theorem State.setter_eq_failedWith {s : State} {sel : ChipSel} (h : s.chip? sel = none) (hn : sel ≠ .null)
    (cmd : CommandKind) (body : State) :
    s.guarded design cmd (s.setterFailing (s.setterTarget design sel)) body = s.failedWith .eInval := by
  have hf : (s.setterFailing (s.setterTarget design sel)).handle = true := by
    simp [State.setterFailing, State.handleOk, h, hn]
  rw [State.guarded_design, if_pos hf]
  rfl

/-- SETRATE of the spec takes the null handle for a dead one (45_mute_rate_clock.md R301). -/
theorem setRate_design (P : Params) (sel : ChipSel) (hz : Word) (s : State) :
    setRate P design sel hz s = s.onChip design .setRate sel {} fun c =>
      (s.setChip sel { c with sampleRateHz := c.effectiveRate P hz.toNat }).ends design .setRate .done
        (resultWord (c.effectiveRate P hz.toNat)) := by
  cases sel <;> rfl

/-- Settles O11: every command but CREATE and the global ones goes by an instance or is a setter. -/
theorem deadHandleIsInvalid : Obligations.DeadHandleIsInvalid := by
  unfold Obligations.DeadHandleIsInvalid
  intro i sel s hi hs hcreate hnull
  rw [exec_eq]
  refine congrArg _ ?_
  cases i with
  | wr0 | wr1 | wr2 | wr3 | wr4 | wr5 | wr6 | wr7 | wr8 | wr9 | wr10 | wr11 | wr12 | wr13 | wr14 | wr15 | run | cycleAdjust
    | reset | bufSize | configure | cleanup =>
    cases hi
    exact State.onChip_eq_failedWith hs _ _ _
  | setRate chip hz =>
    cases hi
    exact (setRate_design hw sel hz s).trans (State.onChip_eq_failedWith hs _ _ _)
  | setActive =>
    cases hi
    refine State.setter_eq_failedWith hs (fun hn => ?_) _ _
    obtain ⟨hactive, -, -⟩ := hnull hn
    exact hactive _ _ (by rw [hn])
  | setEngine =>
    cases hi
    refine State.setter_eq_failedWith hs (fun hn => ?_) _ _
    obtain ⟨-, hengine, -⟩ := hnull hn
    exact hengine _ (by rw [hn])
  | setVolModel =>
    cases hi
    refine State.setter_eq_failedWith hs (fun hn => ?_) _ _
    obtain ⟨-, -, hmodel⟩ := hnull hn
    exact hmodel _ (by rw [hn])
  | create =>
    cases hi
    exact absurd rfl hcreate
  | globalInit | globalShutdown => cases hi

/-! ## Records and frames handed to the host -/

/-- The lowest part of a concatenation may be skipped. -/
theorem extract_above {h m l k : Nat} {x : BitVec h} {y : BitVec l} {z : BitVec m} (hz : x.extractLsb' k m = z) :
    (x ++ y).extractLsb' (k + l) m = z := by
  rw [BitVec.extractLsb'_append_eq_of_le (Nat.le_add_left l k), Nat.add_sub_cancel, hz]

/-- A stamp that fits 32 bits is read back from its field (30_encoding.md R102). -/
theorem stampField_toInt {ts : Int} (hlo : -2 ^ 31 ≤ ts) (hhi : ts < 2 ^ 31) : (stampField 32 ts).toInt = ts := by
  rw [stampField, if_pos ⟨hlo, hhi⟩, BitVec.toInt_ofInt_eq_self (by decide) hlo hhi]

/-- A register index is read back from its field (30_encoding.md R102). -/
theorem regField_toNat (i : Reg) : (BitVec.ofNat 4 i.val).toNat = i.val := by
  rw [BitVec.toNat_ofNat, Nat.mod_eq_of_lt (i.isLt.trans (by decide))]

/-- Settles O58: each field of the record is one part of the concatenation, the parts below it skipped. -/
theorem dumpRecordLayout : Obligations.DumpRecordLayout := by
  unfold Obligations.DumpRecordLayout
  intro id e hlo hhi
  have val : (dumpRecord 32 id e).extractLsb' 0 8 = e.val := BitVec.extractLsb'_append_eq_right
  have reg : (dumpRecord 32 id e).extractLsb' 8 4 = BitVec.ofNat 4 e.reg.val :=
    extract_above BitVec.extractLsb'_append_eq_right
  have low : (dumpRecord 32 id e).extractLsb' 12 2 = 0 :=
    extract_above (extract_above BitVec.extractLsb'_append_eq_right)
  have queue : (dumpRecord 32 id e).extractLsb' 14 2 = id.code :=
    extract_above (extract_above (extract_above BitVec.extractLsb'_append_eq_right))
  have high : (dumpRecord 32 id e).extractLsb' 16 16 = 0 :=
    extract_above (extract_above (extract_above (extract_above BitVec.extractLsb'_append_eq_right)))
  have stamp : (dumpRecord 32 id e).extractLsb' 32 32 = stampField 32 e.ts :=
    extract_above (extract_above (extract_above (extract_above BitVec.extractLsb'_append_eq_left)))
  refine ⟨?_, high, ?_, low, ?_, val⟩
  · rw [stamp, stampField_toInt hlo hhi]
  · rw [queue]
    cases id <;> rfl
  · rw [reg, regField_toNat]

/-- Settles O59: each field of the frame is one part of the concatenation, the parts below it skipped. -/
theorem responseFrameLayout : Obligations.ResponseFrameLayout := by
  unfold Obligations.ResponseFrameLayout
  intro r
  have res2 : (r.toBits decisions).extractLsb' 0 32 = r.res2 := BitVec.extractLsb'_append_eq_right
  have res1 : (r.toBits decisions).extractLsb' 32 32 = r.res1 := extract_above BitVec.extractLsb'_append_eq_right
  have res0 : (r.toBits decisions).extractLsb' 64 32 = r.res0 :=
    extract_above (extract_above BitVec.extractLsb'_append_eq_right)
  have zero : (r.toBits decisions).extractLsb' 96 24 = 0 :=
    extract_above (extract_above (extract_above BitVec.extractLsb'_append_eq_right))
  have status : (r.toBits decisions).extractLsb' 120 8 = r.status.code :=
    extract_above (extract_above (extract_above BitVec.extractLsb'_append_eq_left))
  refine ⟨?_, zero, res0, res1, res2⟩
  rw [status]
  cases r.status <;> rfl

end Sys2Proof.Machine
end

section
/-! Register writes and CYCLEADJUST: what a write makes of the instance by where its event is routed, and what rebasing
makes of the queues, behind a RUN too (40_register_write.md). -/

namespace Sys2Proof.Machine

open Sys2Proof.Config

/-! ## Writes -/

/-- The register of a port index below 14 (10_state.md R29). -/
theorem regOfPort_eq_some {r : PortIndex} {i : Reg} (h : i.val = r.val) : regOfPort r = some i := by
  simp [regOfPort, ← h]

/-- A write to an implemented register, under every design: the byte stored, then its event to the register's queues
(40_register_write.md R130). -/
theorem Chip.write_eq_enqueue (P : Params) (D : Design) (c : Chip) {r : PortIndex} {i : Reg} (h : i.val = r.val) (v : Byte)
    (m : Nat) :
    c.write P D r v m =
      ({ c with sh := c.sh.set i (D.decisions.writes.stored i v) } : Chip).enqueue P D (D.decisions.queuesOf i)
        ⟨m, i, D.decisions.writes.stored i v⟩ := by
  simp [Chip.write, route, regOfPort_eq_some h]

/-- A write to an index without a register does nothing, under every design (40_register_write.md R147, R148). -/
theorem Chip.write_of_regOfPort_none {r : PortIndex} (h : regOfPort r = none) (P : Params) (D : Design) (c : Chip) (v : Byte)
    (m : Nat) : c.write P D r v m = c := by
  simp [Chip.write, h]

/-- A write whose event goes to one queue, under the spec's design: with a free slot one append, else one drop
(40_register_write.md R130, R132). -/
theorem Chip.write_one (P : Params) (c : Chip) {r : PortIndex} {i : Reg} (h : i.val = r.val) {q : QueueId}
    (hq : decisions.queuesOf i = [q]) (v : Byte) (m : Nat) :
    c.write P design r v m =
      if c.poolUsed < P.poolCap then ({ c with sh := c.sh.set i v } : Chip).append ⟨m, i, v⟩ q
      else ({ c with sh := c.sh.set i v } : Chip).countDrops design 1 := by
  rw [Chip.write_eq_enqueue P design c h]
  simp only [design_decisions, decisions_stored, hq]
  exact Chip.enqueue_one P design _ q _

/-- A write on a Live slot changes that slot only (40_register_write.md R130). -/
theorem exec_wr_changedOnly {s : State} {n : SlotNo} {sl : Slot} {c c' : Chip} {r : PortIndex} {v : Byte} {m : Nat}
    (h : s.LiveAt n sl c) (hc : c.write hw design r v m = c') :
    ∃ t, exec (.wr r (.slot n) v m) s = .next t ∧ ChangedOnly s t n { sl with life := .live c' } 0 := by
  subst hc
  exact ⟨_, exec_wr_live h.chip? r v m, State.changedOnly_setChip h _ .write 0⟩

/-! ## Routing -/

/-- The one queue of a register by its group (40_register_write.md R131). -/
theorem queuesOf_eq_of_group {r : PortIndex} {i : Reg} {q : QueueId} (h : i.val = r.val)
    (hr : r ∈ [0, 1, 2, 3, 4, 5, 8, 9, 10] ∧ q = .tone ∨ r = 6 ∧ q = .noise ∨ r ∈ [11, 12, 13] ∧ q = .env) :
    decisions.queuesOf i = [q] := by
  have hi : i.castSucc.castSucc = r := Fin.ext h
  subst hi
  rcases hr with ⟨hr, rfl⟩ | ⟨hr, rfl⟩ | ⟨hr, rfl⟩
  all_goals
    revert i
    decide

/-- Every register but the mixer has one queue (40_register_write.md R131). -/
theorem queuesOf_eq_singleton {i : Reg} (h : i ≠ 7) : ∃ q, decisions.queuesOf i = [q] := by
  refine List.length_eq_one_iff.mp ?_
  revert i
  decide

/-- The mixer's two queues, in order (40_register_write.md R131, R140). -/
theorem queuesOf_mixer : decisions.queuesOf 7 = [.tone, .noise] := rfl

/-! ## The write commands -/

/-- Settles O16: the write's one append finds a free slot. -/
theorem writeQueuesOneEvent : Obligations.WriteQueuesOneEvent := by
  unfold Obligations.WriteQueuesOneEvent
  intro r i q s n sl c v m hi hr hl hfree
  refine exec_wr_changedOnly hl ?_
  rw [Chip.write_one hw c hi (queuesOf_eq_of_group hi hr), if_pos hfree]
  rfl

/-- Settles O18: the write's one append finds no free slot, after the shadow byte was written. -/
theorem writeToFullArenaDrops : Obligations.WriteToFullArenaDrops := by
  unfold Obligations.WriteToFullArenaDrops
  intro r i s n sl c v m hi hr hl hfull
  have hmixer : i ≠ 7 := fun h => hr (Fin.ext (by rw [← hi, h]; rfl))
  obtain ⟨q, hq⟩ := queuesOf_eq_singleton hmixer
  refine exec_wr_changedOnly hl ?_
  rw [Chip.write_one hw c hi hq, if_neg (Nat.not_lt.mpr hfull)]
  rfl

/-- Settles O17: the write's two appends are judged one by one, by the number of free slots. -/
theorem mixerWriteQueuesTwoEvents : Obligations.MixerWriteQueuesTwoEvents := by
  unfold Obligations.MixerWriteQueuesTwoEvents
  intro s n sl c v m hl e drop
  refine exec_wr_changedOnly (r := 7) hl ?_
  rw [Chip.write_eq_enqueue hw design c (r := 7) (i := 7) rfl]
  simp only [design_decisions, decisions_stored, queuesOf_mixer]
  exact Chip.enqueue_two hw _ .tone .noise e

/-! ## Reserved indices -/

/-- Putting the instance a slot holds into that slot changes nothing. -/
theorem State.setChip_self {s : State} {sel : ChipSel} {c : Chip} (h : s.chip? sel = some c) : s.setChip sel c = s := by
  obtain ⟨n, sl, rfl, hl⟩ := State.liveAt_of_chip?_sel h
  have hslot : s.chips[n.val]? = some sl := hl.slot
  have hsame : s.chips.modify n.val (fun sl => { sl with life := .live c }) = s.chips := by
    refine List.ext_getElem? fun k => ?_
    rw [List.getElem?_modify]
    by_cases hk : n.val = k
    · subst hk
      simp [hslot, ← hl.life]
    · simp [hk]
  simp only [State.setChip, State.modifySlot, hsame]

/-- A write to an index without a register answers and does nothing else (40_register_write.md R147, R148). -/
theorem exec_wr_reserved {r : PortIndex} (h : regOfPort r = none) (s : State) (sel : ChipSel) (v : Byte) (m : Nat) :
    exec (.wr r sel v m) s =
      .next { s with resp := some ⟨if (s.chip? sel).isSome then .ok else .eInval, 0, 0, 0⟩ } := by
  cases hc : s.chip? sel with
  | none =>
    rw [exec_eq, command_wr, write, State.onChip_dead hc]
    rfl
  | some c =>
    rw [exec_wr_live hc, Chip.write_of_regOfPort_none h, State.setChip_self hc]
    rfl

/-- Settles O19: indices 14 and 15 have no register. -/
theorem reservedIndexWritesDoNothing : Obligations.ReservedIndexWritesDoNothing := by
  unfold Obligations.ReservedIndexWritesDoNothing
  intro s sel v m st
  exact ⟨exec_wr_reserved (r := 14) rfl s sel v m, exec_wr_reserved (r := 15) rfl s sel v m⟩

/-! ## CYCLEADJUST -/

/-- CYCLEADJUST on a Live instance, in any binding and for any span (40_register_write.md R149). -/
theorem exec_cycleAdjust_live {s : State} {sel : ChipSel} {c : Chip} (h : s.chip? sel = some c) (elapsed : Nat) :
    exec (.cycleAdjust sel elapsed) s =
      .next ((s.setChip sel (c.cycleAdjust design elapsed)).ends design .cycleAdjust .done) := by
  rw [exec_eq, command, cycleAdjust, State.onChip_live h rfl (by decide)]

/-- Settles O21: CYCLEADJUST rebases the instance in its slot. -/
theorem cycleAdjustRebases : Obligations.CycleAdjustRebases := by
  unfold Obligations.CycleAdjustRebases
  intro s n sl c elapsed hl shift
  exact ⟨_, exec_cycleAdjust_live hl.chip? elapsed, State.changedOnly_setChip hl _ .cycleAdjust 0⟩

/-- The instance of the one slot that changed. -/
theorem ChangedOnly.chip? {s t : State} {n : SlotNo} {sl : Slot} {c : Chip} {r0 : Word} (h : ChangedOnly s t n sl r0)
    (hl : sl.life = .live c) : t.chip? (.slot n) = some c :=
  State.chip?_eq_some.mpr ⟨sl, h.slot, hl⟩

/-- An event of a rebased queue is a queued event with its stamp lowered (40_register_write.md R149). -/
theorem Chip.mem_cycleAdjust {D : Design} {c : Chip} {elapsed : Nat} {id : QueueId} {ev : Event} :
    ev ∈ (c.cycleAdjust D elapsed).queues.get id ↔ ∃ e ∈ c.queues.get id, e.rebase elapsed = ev := by
  simp [Chip.cycleAdjust]

/-- After a run on queues in stamp order every queued event is stamped at or beyond the span
(43_synthesis_engine.md R223). -/
theorem Chip.le_ts_of_mem_engineRun {c : Chip} (ho : c.queues.Ordered) (P : Params) (t : VolTable) (e : EngineState)
    {elapsed : Nat} {id : QueueId} {ev : Event} (h : ev ∈ (c.engineRun P design t e elapsed).chip.queues.get id) :
    (elapsed : Int) ≤ ev.ts := by
  have hq : (c.engineRun P design t e elapsed).chip.queues.get id =
      (c.queues.get id).filter fun ev => decide ((elapsed : Int) - 1 < ev.ts) :=
    walk_queues_get design (c.walkEnv t) elapsed (w := c.synth e) ho id
  rw [hq, List.mem_filter, decide_eq_true_eq] at h
  obtain ⟨-, hlt⟩ := h
  omega

/-- Settles O27: RUN leaves the events at or beyond its span, and those are what CYCLEADJUST lowers. -/
theorem rebaseAfterRunStaysNonNegative : Obligations.RebaseAfterRunStaysNonNegative := by
  unfold Obligations.RebaseAfterRunStaysNonNegative
  intro s t u n c c' e elapsed hc he ho ha ht hu hc' id ev hev
  obtain ⟨sl, hl⟩ := State.liveAt_of_chip? hc
  rw [exec_eq, command] at ht
  cases ht
  have hrun := run_liveAt hw design hl he ha
  rw [exec_cycleAdjust_live hrun.chip?] at hu
  cases hu
  have hu' := (State.changedOnly_setChip hrun ((c.engineRun hw design s.g.volTable e elapsed).chip.cycleAdjust design elapsed)
    .cycleAdjust 0).chip? rfl
  obtain rfl := Option.some.inj (hu'.symm.trans hc')
  obtain ⟨q, hq, rfl⟩ := Chip.mem_cycleAdjust.mp hev
  exact Int.sub_nonneg_of_le (Chip.le_ts_of_mem_engineRun ho hw _ e hq)

end Sys2Proof.Machine

namespace Sys2Proof

/-! ## Written-out frames -/

/-- The frame that carries a well-formed command decodes to it (30_encoding.md R92). -/
theorem decode_of_encode_eq {i : Instr} {w : FrameBits} (hw : i.wf = true) (he : encode i = w) : decode w = .command i :=
  he ▸ decodeOfEncode i hw

/-- Settles O4: each frame is the one that carries the command beside it. -/
theorem writtenOutFramesDecode : Obligations.WrittenOutFramesDecode := by
  unfold Obligations.WrittenOutFramesDecode
  refine ⟨?wr0, ?wr2, ?run, ?cycleAdjust, ?configure, ?setActive, ?setEngine, ?globalInit⟩
  all_goals exact decode_of_encode_eq (by decide) (by decide)

end Sys2Proof
end

section
/-! The chip lifecycle: what the lifecycle checks answer, what each lifecycle command makes of the block or of its slot,
and the moves of the binding (41_lifecycle.md). -/

namespace Sys2Proof.Machine

open Sys2Proof.Config

/-! ## Lifecycle checks -/

/-- A command behind its lifecycle checks, in their order: the handle, then initialisation and Live instances
(60_exceptions.md R328). -/
theorem State.guarded_lifecycle {cmd : CommandKind} (hc : cmd.checksLifecycle = true) (hr : cmd ≠ .run) (s : State)
    (f : Failing) (body : State) :
    s.guarded design cmd f body =
      if f.handle then s.failedWith .eInval
      else if f.init || f.live then s.failedWith .eState
      else body := by
  simp only [State.guarded_design, hc, hr, Bool.true_and, decide_false, Bool.false_and, Bool.false_eq_true, if_false]
  rfl

/-! ## Global initialisation and shutdown -/

/-- GLOBAL_INIT (41_lifecycle.md R170). -/
theorem exec_globalInit (s : State) :
    exec .globalInit s = .next (
      if s.g.init then s.failedWith .eState
      else (s.withGlobal (Global.initial hw design, absentSlots s.chips)).ends design .globalInit .done) := by
  rw [exec_eq, command, globalInit, State.guarded_lifecycle rfl (by decide)]
  simp

/-- Settles O55: the check of `G.init` decides between the two cases. -/
theorem globalInitEstablishes : Obligations.GlobalInitEstablishes := by
  unfold Obligations.GlobalInitEstablishes
  intro s
  rw [exec_globalInit]
  constructor
  · intro h
    rw [if_neg (by simp [h])]
    rfl
  · intro h
    rw [if_pos h]

/-- GLOBAL_SHUTDOWN (41_lifecycle.md R171). -/
theorem exec_globalShutdown (s : State) :
    exec .globalShutdown s = .next (
      if !s.g.init || s.anyLive then s.failedWith .eState
      else (s.withGlobal (Global.afterShutdown s.draws, absentSlots s.chips)).draw.ends design .globalShutdown .done) := by
  rw [exec_eq, command, globalShutdown, State.guarded_lifecycle rfl (by decide)]
  simp

/-- Settles O56: initialised and without a Live instance the block closes, otherwise a lifecycle check fails. -/
theorem globalShutdownCloses : Obligations.GlobalShutdownCloses := by
  unfold Obligations.GlobalShutdownCloses
  intro s
  rw [exec_globalShutdown]
  constructor
  · intro hi hl
    rw [if_neg (by simp [hi, hl])]
    exact ⟨_, rfl, rfl, rfl, rfl, rfl, rfl⟩
  · intro h
    rw [if_pos (by simpa using h)]

/-! ## CREATE -/

/-- CREATE of a handle that names no slot (60_exceptions.md R322). -/
theorem exec_create_no_slot {s : State} {sel : ChipSel} (h : s.slot? sel = none) :
    exec (.create sel) s = .next (s.failedWith .eInval) := by
  rw [exec_eq, command, create, State.guarded_lifecycle rfl (by decide), if_pos (by simp [State.createFailing, h])]

/-- CREATE of a slot, not initialised or with an instance Live there (60_exceptions.md R327). -/
theorem exec_create_wrong_state {s : State} {sel : ChipSel} (hs : (s.slot? sel).isSome)
    (h : s.g.init = false ∨ (s.chip? sel).isSome) : exec (.create sel) s = .next (s.failedWith .eState) := by
  have hhandle : ¬(s.createFailing sel).handle = true := by
    simpa [State.createFailing, Option.isSome_iff_ne_none] using hs
  have hlife : ((s.createFailing sel).init || (s.createFailing sel).live) = true := by
    simpa [State.createFailing] using h
  rw [exec_eq, command, create, State.guarded_lifecycle rfl (by decide), if_neg hhandle, if_pos hlife]

/-- CREATE of a slot that is not Live, once initialised (41_lifecycle.md R172). -/
theorem exec_create_not_live {s : State} {n : SlotNo} {sl : Slot} (hs : s.slot? (.slot n) = some sl)
    (hd : sl.chip? = none) (hi : s.g.init = true) :
    let r := design.create hw s.g (engineSetup hw s) sl
    exec (.create (.slot n)) s = .next (
      ((s.draw r.draws).modifySlot (.slot n) fun _ => r.slot).ends design .create r.ending r.res0 r.res1 r.res2) := by
  have hc : s.chip? (.slot n) = none := by simp [State.chip?, hs, hd]
  have hf : s.createFailing (.slot n) = {} := by simp [State.createFailing, hs, hc, hi]
  rw [exec_eq, command, create, State.guarded_lifecycle rfl (by decide), hf]
  simp [hs]

/-- Settles O52: a slot's handle comes first, then initialisation and the slot's existence state; a Live instance stands
in a slot. -/
theorem createFailures : Obligations.CreateFailures := by
  unfold Obligations.CreateFailures
  intro s sel
  refine ⟨exec_create_no_slot, fun hs hi => exec_create_wrong_state hs (.inl hi), fun hc => ?_⟩
  have hs : (s.slot? sel).isSome := Option.isSome_of_isSome_bind hc
  exact exec_create_wrong_state hs (.inr hc)

/-- The ids the spec's design answers are those the spec numbers (30_encoding.md R98). -/
theorem engineId_eq_engineNumber (k : EngineKind) : engineId k = engineNumber k := by
  cases k <;> rfl

/-- Settles O51: CREATE puts the fresh instance, with the answer of setup, into its slot. -/
theorem createBuildsInstance : Obligations.CreateBuildsInstance := by
  unfold Obligations.CreateBuildsInstance
  intro s n sl hs hd hi rate ok
  refine ⟨_, exec_create_not_live hs hd hi, ?slot, .of_modify rfl, rfl, rfl, rfl, rfl, ?answer⟩
  case slot =>
    rw [State.slot?_ends, State.slot?_modifySlot_self, State.slot?_draw, hs]
    rfl
  case answer => simp [State.Answered, engineId_eq_engineNumber, ok, rate, engineSetup]

/-! ## RESET -/

/-- RESET on a Live instance (41_lifecycle.md R173). -/
theorem exec_reset_live {s : State} {sel : ChipSel} {c : Chip} (h : s.chip? sel = some c) (m : Nat) :
    exec (.reset sel m) s = .next ((s.setChip sel (c.reset design)).ends design .reset .done) := by
  rw [exec_eq, command, reset, State.onChip_live h rfl (by decide), State.modifySlot_reset]

/-- RESET leaves an instance without engine unbound and any other Configured, its engine reset (41_lifecycle.md R173,
R176). -/
theorem Binding.afterReset_design (b : Binding) :
    b.afterReset design = if b = .unconfigured then .unconfigured else .configured freshEngine := by
  cases b <;> rfl

/-- Settles O53: RESET puts the reset instance into its slot. -/
theorem resetRestoresPowerOn : Obligations.ResetRestoresPowerOn := by
  unfold Obligations.ResetRestoresPowerOn
  intro s n sl c m hl
  rw [← Binding.afterReset_design]
  exact ⟨_, exec_reset_live hl.chip? m, State.changedOnly_setChip hl (c.reset design) .reset 0⟩

/-! ## CONFIGURE -/

/-- The kind an engine id selects (45_mute_rate_clock.md R302). -/
theorem resolveEngine_kind (dflt current : EngineKind) (id : Word) :
    (resolveEngine decisions dflt current id).1 =
      if id = 1 then .pulse else if id = 2 then .stepBandlimited else if id = 3 then .debugDump
      else if id = 0xFFFFFFFF then current else dflt := by
  rw [resolveEngine_eq]
  by_cases h0 : id = 0
  · simp [h0]
  by_cases hq : id = 0xFFFFFFFF
  · simp [hq]
  simp only [h0, hq, if_false]
  split_ifs <;> rfl

/-- The notice of an engine id that is no kind's, nor DEFAULT nor QUERY (45_mute_rate_clock.md R302). -/
theorem resolveEngine_notices (dflt current : EngineKind) (id : Word) :
    (resolveEngine decisions dflt current id).2 = if id ∈ [0, 1, 2, 3, 0xFFFFFFFF] then [] else [.engine id] := by
  rw [resolveEngine_eq]
  split_ifs <;> simp_all

/-- A clamped value as the bounds cut it (00_scope.md R11). -/
theorem clamp_eq_max_min {v lo hi : Nat} (h : lo ≤ hi) : clamp v lo hi = max lo (min v hi) := by
  unfold clamp
  split_ifs <;> omega

/-- CONFIGURE on a Live instance (41_lifecycle.md R174). -/
theorem exec_configure_live {s : State} {sel : ChipSel} {c : Chip} (h : s.chip? sel = some c) (id clk hz : Word) :
    let e := resolveEngine decisions s.g.defEngine c.engineKind id
    let rate := hw.rateAdjust e.1 (clamp hz.toNat hw.rateMin hw.rateMax)
    let r := c.rebind hw design e.1 rate (engineSetup hw s e.1 rate)
    exec (.configure sel id clk hz) s = .next (
      (((s.notices (e.2 ++ clockNotice hw decisions clk)).draw r.draws).setChip sel r.chip).ends design .configure
        r.ending (engineId e.1) (resultWord hw.clockHz) (resultWord rate)) := by
  rw [exec_eq, command, configure, State.onChip_live h rfl (by decide)]
  rfl

/-- Settles O50: CONFIGURE puts the negotiated instance, with the answer of setup, into its slot. -/
theorem configureNegotiates : Obligations.ConfigureNegotiates := by
  unfold Obligations.ConfigureNegotiates
  intro s n sl c id clk hz hl
  rw [← clamp_eq_max_min (hw.rateMin_le_default.trans hw.rateDefault_le_max), ← resolveEngine_kind,
    ← resolveEngine_notices s.g.defEngine c.engineKind]
  intro kind rate ok
  refine ⟨_, exec_configure_live hl.chip? id clk hz, ?slot, .of_modify rfl, rfl, rfl, rfl, ?diag, ?answer⟩
  case slot =>
    rw [State.slot?_ends, State.slot?_setChip_self, State.slot?_draw, State.slot?_notices, hl.slot]
    rfl
  case diag => exact (List.append_assoc _ _ _).symm
  case answer => simp [State.Answered, engineId_eq_engineNumber, ok, rate, kind, engineSetup]

/-! ## CLEANUP -/

/-- CLEANUP on a Live instance (41_lifecycle.md R175). -/
theorem exec_cleanup_live {s : State} {sel : ChipSel} {c : Chip} (h : s.chip? sel = some c) :
    exec (.cleanup sel) s = .next (
      ((s.notices (overflowNotice decisions sel c.overflowCount)).modifySlot sel (Slot.cleanup design)).ends design
        .cleanup .done (resultWord c.overflowCount)) := by
  rw [exec_eq, command, cleanup, State.onChip_live h rfl (by decide)]
  rfl

/-- Settles O54: CLEANUP destroys the instance in its slot. -/
theorem cleanupDestroysAndReports : Obligations.CleanupDestroysAndReports := by
  unfold Obligations.CleanupDestroysAndReports
  intro s n sl c hl
  refine ⟨_, exec_cleanup_live hl.chip?, ?slot, .of_modify rfl, rfl, rfl, rfl, rfl, rfl⟩
  rw [State.slot?_ends, State.slot?_modifySlot_self, State.slot?_notices, hl.slot]
  rfl

/-! ## The binding -/

/-- RUN without a sink fails (43_synthesis_engine.md R220, 60_exceptions.md R328). -/
theorem run_without_sink (P : Params) (sel : ChipSel) (elapsed : Nat) (s : State) :
    ∃ st, run P design sel elapsed false s = s.failedWith st := by
  rcases s.guarded_cases design .run (s.failing sel { alignment := elapsed % 32 ≠ 0, buffer := !false }) _
    with ⟨st, -, h⟩ | ⟨hp, -⟩
  · exact ⟨st, h⟩
  · rw [design_decisions, verdict_decisions] at hp
    simp [State.failing, CommandKind.checksLifecycle] at hp

/-- The commands that set up an engine for slot `n` and keep its instance (41_lifecycle.md R174, R180). -/
def SetsUp (i : Instr) (n : SlotNo) : Prop :=
  (∃ id clk hz, i = .configure (.slot n) id clk hz) ∨ ∃ id, i = .setEngine (.slot n) id

/-- The moves a command can make with the binding of an instance that is Live before and after it
(41_lifecycle.md R180). -/
inductive BindingMove (i : Instr) (n : SlotNo) : BindingName → BindingName → Prop where
  | kept (b : BindingName) : BindingMove i n b b
  | setUp (b : BindingName) {b' : BindingName} (cmd : SetsUp i n) (h : b' ≠ .running) : BindingMove i n b b'
  | restarted (m : Nat) (cmd : i = .reset (.slot n) m) {b : BindingName} (h : b ≠ .unconfigured) :
      BindingMove i n b .configured
  | ran (m : Nat) (cmd : i = .run (.slot n) m true) {b : BindingName} (h : b ≠ .unconfigured) : BindingMove i n b .running

/-- Engine setup never leaves an instance Running (41_lifecycle.md R180). -/
theorem reboundBinding_name_ne_running (fresh : EngineState) (ok : Bool) :
    (reboundBinding fresh ok).name ≠ .running := by
  cases ok <;> simp [reboundBinding, Binding.name]

/-- An instance with an engine is not Unconfigured (41_lifecycle.md R180). -/
theorem Binding.name_ne_unconfigured {b : Binding} {e : EngineState} (h : b.engine? = some e) :
    b.name ≠ .unconfigured := by
  rintro hb
  cases b with
  | unconfigured => cases h
  | configured | running => cases hb

/-- A write leaves the binding (40_register_write.md R130). -/
@[simp] theorem Chip.write_binding (P : Params) (D : Design) (c : Chip) (r : PortIndex) (v : Byte) (m : Nat) :
    (c.write P D r v m).binding = c.binding := by
  rcases Chip.write_cases P D c r v m with h | ⟨sh, i, b, h⟩
  · rw [h]
  · rw [h, Chip.enqueue_eq]

/-- Of the commands on an instance, but RUN and RESET, only those that set up an engine move the binding. -/
theorem ChipUpdate.bindingMove {P : Params} {i : Instr} {n : SlotNo} {c c' : Chip} (h : ChipUpdate P design i n c c') :
    BindingMove i n c.binding.name c'.binding.name := by
  cases h with
  | write r v m =>
    rw [Chip.write_binding]
    exact .kept _
  | configure id clk hz _ ok cmd => exact .setUp _ (.inl ⟨id, clk, hz, cmd⟩) (reboundBinding_name_ne_running _ ok)
  | engine id _ ok cmd => exact .setUp _ (.inr ⟨id, cmd⟩) (reboundBinding_name_ne_running _ ok)
  | rebase | mask | rate => exact .kept _

/-- RESET keeps an instance Unconfigured or makes it Configured (41_lifecycle.md R173). -/
theorem Binding.afterReset_bindingMove {i : Instr} {n : SlotNo} {m : Nat} (cmd : i = .reset (.slot n) m) (D : Design)
    (b : Binding) : BindingMove i n b.name (b.afterReset D).name := by
  cases b with
  | unconfigured => exact .kept _
  | configured | running => exact .restarted m cmd nofun

/-- The move of the binding with what a command, other than a RUN without a sink, makes of the slot. -/
theorem SlotEffect.bindingMove {P : Params} {i : Instr} {s : State} {n : SlotNo} {sl sl' : Slot} {c c' : Chip}
    (h : SlotEffect P i s n sl sl') (hl : sl.life = .live c) (hl' : sl'.life = .live c')
    (hsink : ∀ m, i ≠ .run (.slot n) m false) : BindingMove i n c.binding.name c'.binding.name := by
  cases h with
  | kept =>
    obtain rfl : c = c' := Life.live.inj (hl.symm.trans hl')
    exact .kept _
  | update c₀ _ life upd =>
    obtain rfl : c₀ = c := Life.live.inj (life.symm.trans hl)
    cases hl'
    exact upd.bindingMove
  | restarted c₀ m cmd life =>
    obtain rfl : c₀ = c := Life.live.inj (life.symm.trans hl)
    cases hl'
    exact Binding.afterReset_bindingMove cmd design _
  | ran c₀ e m bufv cmd life bound =>
    obtain rfl : c₀ = c := Life.live.inj (life.symm.trans hl)
    cases hl'
    cases bufv with
    | false => exact absurd cmd (hsink m)
    | true => exact .ran m cmd (Binding.name_ne_unconfigured bound)
  | created _ _ dead => cases (Slot.chip?_eq_some.mpr hl).symm.trans dead
  | destroyed => cases hl'

/-- The move of the binding with any command. -/
theorem exec_bindingMove {i : Instr} {s t : State} {n : SlotNo} {c c' : Chip} (h : exec i s = .next t)
    (hc : s.chip? (.slot n) = some c) (hc' : t.chip? (.slot n) = some c') :
    BindingMove i n c.binding.name c'.binding.name := by
  obtain ⟨sl, hs, hl⟩ := State.chip?_eq_some.mp hc
  obtain ⟨sl', hs', hl'⟩ := State.chip?_eq_some.mp hc'
  by_cases hrun : ∃ m, i = .run (.slot n) m false
  · obtain ⟨m, rfl⟩ := hrun
    obtain ⟨st, hst⟩ := run_without_sink hw (.slot n) m s
    rw [exec_eq, command, hst] at h
    cases h
    obtain rfl : c = c' := Option.some.inj (hc.symm.trans hc')
    exact .kept _
  · rcases (exec_effect h).slot hs hs' with ⟨-, he⟩ | rfl
    · exact he.bindingMove hl hl' (not_exists.mp hrun)
    · cases hl'

/-- Settles O57: each forbidden move differs from every move a command can make. -/
theorem bindingStateMachine : Obligations.BindingStateMachine := by
  unfold Obligations.BindingStateMachine
  intro i s t n c c' h hc hc' setsUp
  have hmove := exec_bindingMove h hc hc'
  generalize c.binding.name = b at hmove ⊢
  generalize c'.binding.name = b' at hmove ⊢
  cases hmove with
  | kept => cases b <;> simp
  | setUp _ cmd hrun =>
    exact ⟨fun _ _ => cmd, fun _ => hrun, fun _ _ => cmd, fun _ h => absurd h hrun, fun _ _ => .inl cmd⟩
  | restarted m cmd hb => exact ⟨fun h => absurd h hb, fun h => absurd h hb, nofun, nofun, fun _ _ => .inr ⟨m, cmd⟩⟩
  | ran m cmd hb => exact ⟨fun h => absurd h hb, fun h => absurd h hb, nofun, fun _ _ => ⟨m, cmd⟩, nofun⟩

end Sys2Proof.Machine
end

section
/-! The volume table: what is read of a built one, its bounds and its order, and SET_VOLMODEL (42_volume_table.md). -/

namespace Sys2Proof.Machine

open Sys2Proof.Config

/-! ## Entries -/

/-- An entry is at most the peak level, for each contribution is at most CMAX (42_volume_table.md R201). -/
theorem volEntry_le_peak (P : Params) (m : VolModel) (peak : Nat) (a b c : Fin 32) :
    volEntry P decisions m peak a b c ≤ peak := by
  have sum : contribution P m a + contribution P m b + contribution P m c ≤ 3 * contributionMax P m := by
    have ha := contribution_le_max P m a
    have hb := contribution_le_max P m b
    have hc := contribution_le_max P m c
    omega
  have pos : 0 < 3 * contributionMax P m := Nat.mul_pos (by decide) (contributionMax_pos P m)
  calc volEntry P decisions m peak a b c
    _ ≤ peak * (3 * contributionMax P m) / (3 * contributionMax P m) :=
      Nat.div_le_div_right (Nat.mul_le_mul_left peak sum)
    _ = peak := Nat.mul_div_cancel peak pos

/-- Entries are ordered as their levels are (42_volume_table.md R205). -/
theorem volEntry_mono (P : Params) (m : VolModel) (peak : Nat) {a a' b b' c c' : Fin 32} (ha : a ≤ a') (hb : b ≤ b')
    (hc : c ≤ c') : volEntry P decisions m peak a b c ≤ volEntry P decisions m peak a' b' c' :=
  have sum := Nat.add_le_add (Nat.add_le_add (contribution_mono P m ha) (contribution_mono P m hb))
    (contribution_mono P m hc)
  Nat.div_le_div_right (Nat.mul_le_mul_left peak sum)

/-- What is read of a built table at a triple of levels is the entry itself: under the law on the peak level
(42_volume_table.md R200) it fits a sample. -/
theorem read_buildVolumeTable_packLevels (P : Params) (m : VolModel) {peak : Nat} (hp : peak ≤ 32767)
    (la lb lc : Level) :
    (buildVolumeTable P decisions m peak).read decisions (packLevels la lb lc) =
      (volEntry P decisions m peak la.toFin lb.toFin lc.toFin : Nat) := by
  have fits : FitsSigned 16 (volEntry P decisions m peak la.toFin lb.toFin lc.toFin : Nat) := by
    have bound := volEntry_le_peak P m peak la.toFin lb.toFin lc.toFin
    exact ⟨by omega, by omega⟩
  rw [read_buildVolumeTable, unpackLevels_packLevels]
  exact narrow_of_fits (by decide) fits

/-- Settles O43: what is read is the entry as a number. -/
theorem volumeTableFormula : Obligations.VolumeTableFormula := by
  unfold Obligations.VolumeTableFormula
  intro P m peak la lb lc hp C entry
  have curve (l : Level) : C l = contribution P m l.toFin := by cases m <;> rfl
  have read : entry = (volEntry P decisions m peak la.toFin lb.toFin lc.toFin : Nat) :=
    read_buildVolumeTable_packLevels P m hp la lb lc
  rw [read]
  refine ⟨?_, Int.natCast_nonneg _, Int.ofNat_le.mpr (volEntry_le_peak P m peak _ _ _)⟩
  simp only [curve]
  rfl

/-- Settles O44: the magnitude read is the entry, which is ordered as the levels are. -/
theorem volumeTableMonotone : Obligations.VolumeTableMonotone := by
  unfold Obligations.VolumeTableMonotone
  intro P m peak la lb lc l hp mag
  have magnitude (a b c : Level) : mag a b c = volEntry P decisions m peak a.toFin b.toFin c.toFin :=
    congrArg Int.natAbs (read_buildVolumeTable_packLevels P m hp a b c)
  simp only [magnitude]
  exact ⟨fun h => volEntry_mono P m peak h le_rfl le_rfl, fun h => volEntry_mono P m peak le_rfl h le_rfl,
    fun h => volEntry_mono P m peak le_rfl le_rfl h⟩

/-! ## SET_VOLMODEL -/

/-- A setter on the null handle or on a Live instance fails on an uninitialised block alone (42_volume_table.md R204,
45_mute_rate_clock.md R300, R302). -/
theorem State.setter_handleOk {s : State} {sel : ChipSel} (h : sel = .null ∨ (s.chip? sel).isSome) {cmd : CommandKind}
    (hc : cmd.checksLifecycle = true) (hr : cmd ≠ .run) (body : State) :
    s.guarded design cmd (s.setterFailing (s.setterTarget design sel)) body =
      if s.g.init then body else s.failedWith .eState := by
  have hok : s.handleOk sel = true := by simpa [State.handleOk] using h
  rw [State.guarded_lifecycle hc hr]
  cases hi : s.g.init <;> simp [State.setterFailing, State.failing, hok, hi]

/-- SET_VOLMODEL on the null handle or on a Live instance (42_volume_table.md R204). -/
theorem exec_setVolModel {s : State} {sel : ChipSel} (h : sel = .null ∨ (s.chip? sel).isSome) (id : Word) :
    let m := resolveModel decisions s.g.volModel id
    exec (.setVolModel sel id) s = .next (
      if s.g.init then
        ({ s.notices m.2 with g := s.g.selectModel hw design m.1 }).ends design .setVolModel .done (modelId m.1)
      else s.failedWith .eState) := by
  rw [exec_eq, command, setVolModel, State.setter_handleOk h rfl (by decide)]
  rfl

/-- The model an id selects (42_volume_table.md R204). -/
theorem resolveModel_model (current : VolModel) (id : Word) :
    (resolveModel decisions current id).1 = if id = 1 then .nonlinear else if id = 2 then .linear else current := by
  rw [resolveModel_eq]
  by_cases h0 : id = 0
  · simp [h0]
  by_cases hq : id = 0xFFFFFFFF
  · simp [hq]
  simp only [h0, hq, if_false]
  split_ifs <;> rfl

/-- The notice of a model id that is no model's, nor DEFAULT nor QUERY (42_volume_table.md R204). -/
theorem resolveModel_notices (current : VolModel) (id : Word) :
    (resolveModel decisions current id).2 = if id ∈ [0, 1, 2, 0xFFFFFFFF] then [] else [.volModel id] := by
  rw [resolveModel_eq]
  split_ifs <;> simp_all

/-- The id of a model as a number (30_encoding.md R98). -/
theorem modelId_eq (m : VolModel) : modelId m = if m = .nonlinear then 1 else 2 := by
  cases m <;> rfl

/-- Settles O45: the handle comes first, then initialisation; behind both the model its id selects is put in force. -/
theorem setVolModelSelects : Obligations.SetVolModelSelects := by
  unfold Obligations.SetVolModelSelects
  intro s sel id
  rw [← resolveModel_model]
  intro m
  refine ⟨fun hn hc => ?dead, fun h hi => ?uninitialised, fun h hi => ?selects⟩
  case dead =>
    rw [exec_eq, command, setVolModel, State.setter_eq_failedWith hc hn]
  case uninitialised => rw [exec_setVolModel h, hi, if_neg Bool.false_ne_true]
  case selects =>
    have diag : s.diag ++ (resolveModel decisions s.g.volModel id).2 =
        if id ∈ [0, 1, 2, 0xFFFFFFFF] then s.diag else s.diag ++ [.volModel id] := by
      rw [resolveModel_notices]
      split
      · exact List.append_nil _
      · rfl
    rw [exec_setVolModel h, if_pos hi, Global.selectModel_design, modelId_eq, ← diag]
    rfl

end Sys2Proof.Machine
end

section
/-! The parts of the sequencer and of the outputs by themselves: what NextDue names, what ApplyEvent and PulseOut do, and
the commands of 43_synthesis_engine.md that do not complete a run. -/

namespace Sys2Proof.Machine

open Sys2Proof.Config

/-! ## NextDue -/

/-- The order of the queues among equal stamps is the design's (43_synthesis_engine.md R226). -/
theorem tieOrder_eq_queueRank : tieOrder = queueRank := by
  funext id
  cases id <;> rfl

/-- Heads of two queues that each come no later than the other are of one queue. -/
theorem Taken.before.queue_eq {rank : QueueId → Nat} (hinj : ∀ id id', rank id = rank id' → id = id') {a b : Taken}
    (h : Taken.before rank a b) (h' : Taken.before rank b a) : a.1 = b.1 := by
  unfold Taken.before at h h'
  exact hinj _ _ (by omega)

/-- NextDue names the queue whose due head comes no later than any other head (43_synthesis_engine.md R226). -/
theorem nextDue_eq_some_iff {q : Queues} {rank : QueueId → Nat} (hinj : ∀ id id', rank id = rank id' → id = id')
    {lim : Int} {id : QueueId} :
    q.nextDue rank lim = some id ↔
      ∃ e rest, q.get id = e :: rest ∧ e.ts ≤ lim ∧
        ∀ id' e' rest', q.get id' = e' :: rest' → Taken.before rank (id, e) (id', e') := by
  constructor
  · intro h
    obtain ⟨e, rest, hq, hts⟩ := nextDue_eq_some h
    exact ⟨e, rest, hq, hts, fun id' _ _ => nextDue_before h hq id'⟩
  · rintro ⟨e, rest, hq, hts, hfirst⟩
    cases hd : q.nextDue rank lim with
    | none =>
      have hlt := dueStamp_eq_none.mp (nextDue_eq_none.mp hd id) e rest hq
      omega
    | some id' =>
      obtain ⟨e', rest', hq', -⟩ := nextDue_eq_some hd
      exact congrArg some (Taken.before.queue_eq hinj (nextDue_before hd hq' id hq) (hfirst id' e' rest' hq'))

/-- Settles O32: a queue is named for its head, and heads are compared by stamp and rank alone. -/
theorem nextDueIsEarliestHead : Obligations.NextDueIsEarliestHead := by
  unfold Obligations.NextDueIsEarliestHead
  intro q lim
  simp only [tieOrder_eq_queueRank]
  refine ⟨?none, fun id => nextDue_eq_some_iff sequencing.rank_inj⟩
  simp only [nextDue_eq_none, dueStamp_eq_none]

/-! ## ApplyEvent -/

/-- The spec's ApplyEvent restarts the envelope for register 13 under an engine with generators
(43_synthesis_engine.md R224). -/
theorem onEvent_design {kind : EngineKind} (hk : kind ≠ .debugDump) (r : Reg) (v : Byte) (e : EngineState) :
    design.model.onEvent kind r v e = if r = 13 then e.restartEnvelope else e := by
  rw [design_onEvent, if_pos (generates_iff.mpr hk)]
  rfl

/-- DebugDump's engine state takes no part in an event (43_synthesis_engine.md R224, R229). -/
@[simp] theorem onEvent_debugDump (r : Reg) (v : Byte) (e : EngineState) :
    design.model.onEvent .debugDump r v e = e := rfl

/-- Settles O33: the register is written under every engine; the rest goes by whether the engine is DebugDump. -/
theorem applyEventEffect : Obligations.ApplyEventEffect := by
  unfold Obligations.ApplyEventEffect
  intro kind id e w
  refine ⟨applyEvent_x .., applyEvent_queues .., ?debugDump, ?generating⟩
  case debugDump =>
    rintro rfl
    exact ⟨rfl, rfl⟩
  case generating => exact fun hk => ⟨if_neg hk, onEvent_design hk e.reg e.val w.eng⟩

/-! ## PulseOut -/

/-- The internal sample of an output sample exists (43_synthesis_engine.md R231). -/
theorem pulseIndex_lt {j k n : Nat} (hj : j < n) (hk : 0 < k) : j * k / n < k :=
  Nat.div_lt_of_lt_mul (Nat.mul_lt_mul_of_pos_right hj hk)

/-- Settles O34: the index is in range, so the default of `pulseOut` is never taken. -/
theorem pulseOutSamples : Obligations.PulseOutSamples := by
  unfold Obligations.PulseOutSamples
  intro s n
  refine ⟨by simp [pulseOut], fun j hj hs => ?_⟩
  have hlt := pulseIndex_lt hj hs
  exact ⟨hlt, by simp [pulseOut, hj, hlt]⟩

/-! ## BUFSIZE -/

/-- A number below 2^32 is its result word (30_encoding.md R93). -/
theorem resultWord_toNat_of_lt {v : Nat} (h : v < 2 ^ 32) : (resultWord v).toNat = v := by
  rw [resultWord, if_pos h, BitVec.toNat_ofNat, Nat.mod_eq_of_lt h]

/-- Settles O35: BUFSIZE checks nothing but its handle. -/
theorem bufSizeAnswers : Obligations.BufSizeAnswers := by
  unfold Obligations.BufSizeAnswers
  refine ⟨fun s n sl c elapsed hl => ?_, fun _ => resultWord_toNat_of_lt⟩
  rw [exec_eq, command, bufSize, State.onChip_live hl.chip? rfl (by decide)]
  rfl

/-! ## Failing runs -/

/-- A RUN on a Live instance that fails, by the first of its conditions that does (43_synthesis_engine.md R220, R233;
60_exceptions.md R328). -/
theorem exec_run_failing {s : State} {sel : ChipSel} {c : Chip} (h : s.chip? sel = some c) {elapsed : Nat} {bufv : Bool}
    (hf : elapsed % 32 ≠ 0 ∨ bufv = false ∨ c.binding = .unconfigured) :
    exec (.run sel elapsed bufv) s =
      .next (s.failedWith (if elapsed % 32 ≠ 0 ∨ bufv = false then .eInval else .eState)) := by
  have answer (st : Status) : s.ends design .run (.failed st) = s.failedWith st := rfl
  rw [exec_eq, command, run, State.onChip, State.guarded_design]
  simp only [State.failing, h, CommandKind.checksLifecycle, answer]
  by_cases ha : elapsed % 32 = 0
  · cases bufv with
    | false => simp [ha]
    | true =>
      have hb : c.binding.engine? = none := by
        obtain hb : c.binding = .unconfigured := by simpa [ha] using hf
        rw [hb]
        rfl
      simp [ha, hb]
  · simp [ha]

/-- Settles O23: each case is the first condition that fails. -/
theorem runFailures : Obligations.RunFailures := by
  unfold Obligations.RunFailures
  intro s n c elapsed bufv hc
  refine ⟨fun ha => ?alignment, fun _ hb => ?sink, fun ha hb hu => ?engine⟩
  case alignment => rw [exec_run_failing hc (.inl ha), if_pos (.inl ha)]
  case sink => rw [exec_run_failing hc (.inr (.inl hb)), if_pos (.inr hb)]
  case engine => rw [exec_run_failing hc (.inr (.inr hu)), if_neg (by simp [ha, hb])]

end Sys2Proof.Machine
end

section
/-! A completed RUN of the spec's design: its answer and its frame, what it leaves of the queues and of the registers, and
what a run of DebugDump records (43_synthesis_engine.md R220, R223, R226, R229). -/

namespace Sys2Proof.Machine

open Sys2Proof.Config

/-! ## The frame -/

/-- A RUN that completes changes its slot alone, to what `engineRun` makes of it, and answers the sample count
(43_synthesis_engine.md R220, R221, R225). -/
theorem run_changedOnly {s : State} {n : SlotNo} {sl : Slot} {c : Chip} {e : EngineState} {elapsed : Nat}
    (h : s.LiveAt n sl c) (he : c.binding.engine? = some e) (ha : elapsed % 32 = 0) :
    let r := c.engineRun hw design s.g.volTable e elapsed
    ChangedOnly s (run hw design (.slot n) elapsed true s) n ⟨.live r.chip, sl.pcm ++ r.pcm, sl.dump ++ r.dump⟩
      (resultWord (elapsed * c.sampleRateHz / c.clockHz)) := by
  rw [run_of_bound hw design h.chip? he ha, State.emit_setChip]
  exact
    { slot := by rw [State.slot?_ends, State.slot?_modifySlot_self, h.slot]; rfl
      others := .of_modify rfl
      beside := ⟨rfl, rfl, rfl, rfl⟩
      answer := rfl }

/-- The number of samples of a run (43_synthesis_engine.md R225). -/
theorem Chip.engineRun_pcm_length (P : Params) (t : VolTable) (c : Chip) (e : EngineState) (elapsed : Nat) :
    (c.engineRun P design t e elapsed).pcm.length = elapsed * c.sampleRateHz / c.clockHz :=
  engineOut_length P design c.engineKind _ _ _ _

/-- Settles O22: the slot holds what `engineRun` makes of the instance. -/
theorem runCompletes : Obligations.RunCompletes := by
  unfold Obligations.RunCompletes
  intro s n sl c e elapsed hl he ha
  exact ⟨_, _, _, _, _, _, exec_eq _ _, Chip.engineRun_pcm_length hw _ c e elapsed, run_changedOnly hl he ha⟩

/-- The instance after a RUN that completes is the one its engine leaves. -/
theorem chip_of_exec_run {s t : State} {n : SlotNo} {c c' : Chip} {e : EngineState} {elapsed : Nat}
    (hc : s.chip? (.slot n) = some c) (he : c.binding.engine? = some e) (ha : elapsed % 32 = 0)
    (ht : exec (.run (.slot n) elapsed true) s = .next t) (hc' : t.chip? (.slot n) = some c') :
    c' = (c.engineRun hw design s.g.volTable e elapsed).chip := by
  obtain ⟨sl, hl⟩ := State.liveAt_of_chip? hc
  rw [exec_eq, command] at ht
  cases ht
  exact Option.some.inj (hc'.symm.trans (run_liveAt hw design hl he ha).chip?)

/-! ## Queues -/

/-- A run takes the events below its span off ordered queues, and no other (43_synthesis_engine.md R223). -/
theorem walk_design_queues_get (env : WalkEnv) (elapsed : Nat) {w : Synth} (ho : w.queues.Ordered) (id : QueueId) :
    (walk design env elapsed w).2.queues.get id =
      (w.queues.get id).filter fun ev => decide ((elapsed : Int) ≤ ev.ts) := by
  simpa using walk_queues_get design env elapsed ho id

/-- Settles O24: the queues of the instance are those the walk leaves. -/
theorem runDrainsDueEvents : Obligations.RunDrainsDueEvents := by
  unfold Obligations.RunDrainsDueEvents
  intro s t n c c' e elapsed hc he ho ha ht hc'
  obtain rfl := chip_of_exec_run hc he ha ht hc'
  exact ⟨rfl, walk_design_queues_get (c.walkEnv s.g.volTable) elapsed (w := c.synth e) ho⟩

/-! ## Registers -/

/-- The value of the last event for a register in one queue among those stamped up to `lim`. -/
def Queues.lastIn (q : Queues) (lim : Int) (i : Reg) (id : QueueId) : Option Byte :=
  ((q.get id).filter fun ev => decide (ev.reg = i ∧ ev.ts ≤ lim)).getLast?.map Event.val

/-- The last member of a list that satisfies `p` is the last of its members that do. -/
theorem getLast?_filter_of_last {α : Type} {p : α → Bool} {l : List α} {k : Nat} {a : α} (hk : l[k]? = some a)
    (ha : p a = true) (hlast : ∀ k' b, l[k']? = some b → p b = true → k' ≤ k) : (l.filter p).getLast? = some a := by
  obtain ⟨hlt, hget⟩ := List.getElem?_eq_some_iff.mp hk
  have later : (l.drop (k + 1)).filter p = [] := by
    rw [List.filter_eq_nil_iff]
    intro b hb hp
    obtain ⟨j, hj⟩ := List.mem_iff_getElem?.mp hb
    rw [List.getElem?_drop] at hj
    have := hlast _ b hj hp
    omega
  rw [← List.take_append_drop k l, List.drop_eq_getElem_cons hlt, hget, List.filter_append,
    List.filter_cons_of_pos ha, later, List.getLast?_concat]

/-- No due event for a register in a queue. -/
theorem Queues.lastIn_eq_none {q : Queues} {lim : Int} {i : Reg} {id : QueueId} :
    q.lastIn lim i id = none ↔ ∀ ev ∈ q.get id, ev.reg = i → lim < ev.ts := by
  simp [Queues.lastIn]

/-- In a queue in stamp order a later place has no lower stamp. -/
theorem stampsOrdered.ts_le {l : List Event} (h : stampsOrdered l) {k k' : Nat} {ev ev' : Event} (hlt : k < k')
    (hk : l[k]? = some ev) (hk' : l[k']? = some ev') : ev.ts ≤ ev'.ts := by
  obtain ⟨hl, rfl⟩ := List.getElem?_eq_some_iff.mp hk
  obtain ⟨hl', rfl⟩ := List.getElem?_eq_some_iff.mp hk'
  exact List.pairwise_iff_getElem.mp h k k' hl hl' hlt

/-- What a register of ordered queues holds is the value of the last due event for it in one of the queues, or its old
value, if no queue has one. -/
theorem Queues.Commits.lastIn {q : Queues} {rank : QueueId → Nat} {lim : Int} {i : Reg} {old v : Byte}
    (h : q.Commits rank lim i old v) (ho : q.Ordered) :
    (∃ id, q.lastIn lim i id = some v) ∨ (∀ id, q.lastIn lim i id = none) ∧ v = old := by
  rcases h with ⟨id, k, ev, hk, hreg, hts, rfl, hlast⟩ | ⟨hnone, hv⟩
  · refine .inl ⟨id, ?_⟩
    rw [Queues.lastIn, getLast?_filter_of_last hk (by simp [hreg, hts])]
    · rfl
    · intro k' ev' hk' hp
      obtain ⟨hreg', hts'⟩ : ev'.reg = i ∧ ev'.ts ≤ lim := by simpa using hp
      by_contra hlt
      have hle := (Queues.ordered_iff.mp ho id).ts_le (Nat.lt_of_not_le hlt) hk hk'
      have := hlast id k' ev' hk' hreg' hts'
      omega
  · exact .inr ⟨fun id => Queues.lastIn_eq_none.mpr (hnone id), hv⟩

/-- Where the queues that have a due event for a register agree with one of them on the last, that one is what the
register holds. -/
theorem Queues.Commits.eq_lastIn {q : Queues} {rank : QueueId → Nat} {lim : Int} {i : Reg} {old v : Byte}
    (h : q.Commits rank lim i old v) (ho : q.Ordered) {id : QueueId}
    (hid : ∀ id', q.lastIn lim i id' = none ∨ q.lastIn lim i id' = q.lastIn lim i id) :
    v = (q.lastIn lim i id).getD old := by
  rcases h.lastIn ho with ⟨id', hv⟩ | ⟨hnone, rfl⟩
  · rcases hid id' with hn | he
    · cases hn.symm.trans hv
    · rw [← he, hv, Option.getD_some]
  · rw [hnone id, Option.getD_none]

/-- The last due event for a register is that among the queue's events for it. -/
theorem Queues.lastIn_eq_of_filter {q : Queues} {lim : Int} {i : Reg} {id id' : QueueId}
    (h : (q.get id).filter (fun ev => decide (ev.reg = i)) = (q.get id').filter fun ev => decide (ev.reg = i)) :
    q.lastIn lim i id = q.lastIn lim i id' := by
  have split (l : List Event) : l.filter (fun ev => decide (ev.reg = i ∧ ev.ts ≤ lim)) =
      (l.filter fun ev => decide (ev.reg = i)).filter fun ev => decide (ev.ts ≤ lim) := by
    simp [List.filter_filter, and_comm]
  rw [Queues.lastIn, Queues.lastIn, split, split, h]

/-- Settles O25: the walk commits the last due event over all queues; with its events in one queue, or in two queues
alike, that is the last due one there. -/
theorem runCommitsLastDueWrite : Obligations.RunCommitsLastDueWrite := by
  unfold Obligations.RunCommitsLastDueWrite
  intro s t n c c' e elapsed hc he ho ha ht hc' lastDue copies
  obtain rfl := chip_of_exec_run hc he ha ht hc'
  have commits (i : Reg) : c.queues.Commits queueRank (elapsed - 1) i (c.x.get i)
      ((c.engineRun hw design s.g.volTable e elapsed).chip.x.get i) :=
    walk_commits design (c.walkEnv s.g.volTable) elapsed (w := c.synth e) ho i
  have lastIn (id : QueueId) (i : Reg) : lastDue id i = (c.queues.lastIn (elapsed - 1) i id).getD (c.x.get i) := by
    simp only [lastDue, Queues.lastIn, Int.le_sub_one_iff]
  simp only [tieOrder_eq_queueRank, lastIn]
  refine ⟨commits, fun i id hother => (commits i).eq_lastIn ho fun id' => ?one, fun htone henv =>
    (commits 7).eq_lastIn ho fun id' => ?mixer⟩
  case one =>
    by_cases hid : id' = id
    · exact .inr (by rw [hid])
    · exact .inl (Queues.lastIn_eq_none.mpr fun ev hev hreg => absurd hreg (hother id' hid ev hev))
  case mixer =>
    cases id' with
    | tone => exact .inr rfl
    | noise => exact .inr (Queues.lastIn_eq_of_filter htone.symm)
    | env =>
      refine .inl (Queues.lastIn_eq_none.mpr fun ev hev hreg => ?_)
      exact absurd (decide_eq_true hreg) (List.filter_eq_nil_iff.mp henv ev hev)

/-! ## DebugDump -/

/-- A walk without generators leaves the engine state (43_synthesis_engine.md R229; log 12). -/
theorem walk_debugDump_eng {env : WalkEnv} (hk : env.kind = .debugDump) (elapsed : Nat) (w : Synth) :
    (walk design env elapsed w).2.eng = w.eng := by
  obtain ⟨kind, table, mute⟩ := env
  obtain rfl : kind = .debugDump := hk
  have event := fun (r : Reg) (v : Byte) e (he : e = w.eng) => (onEvent_debugDump r v e).trans he
  have step := fun x e (he : e = w.eng) => (design_stepGenerators .debugDump mute x e).trans he
  exact applyDue_eng event _ (walkTicks_eng (env := ⟨.debugDump, table, mute⟩) event step 0 _ rfl)

/-- DebugDump's run: zero samples, the walk's registers and queues, the engine as it was (43_synthesis_engine.md R229). -/
theorem Chip.engineRun_debugDump {c : Chip} (hk : c.engineKind = .debugDump) (P : Params) (t : VolTable) (e : EngineState)
    (elapsed : Nat) :
    let w := (walk design (c.walkEnv t) elapsed (c.synth e)).2
    c.engineRun P design t e elapsed =
      { pcm := List.replicate (elapsed * c.sampleRateHz / c.clockHz) 0
        dump := w.dump
        chip := { c with x := w.x, queues := w.queues, binding := .running e } } := by
  have heng : (walk design (c.walkEnv t) elapsed (c.synth e)).2.eng = e := walk_debugDump_eng hk elapsed (c.synth e)
  rw [Chip.engineRun, heng, hk]
  rfl

/-- DebugDump records each applied event once (43_synthesis_engine.md R224). -/
theorem Applied.dump_debugDump {kind : EngineKind} (hk : kind = .debugDump) {lim : Int} {l : List Taken} {w w' : Synth}
    (h : Applied design kind lim l w w') : w'.dump = w.dump ++ l.map fun a => dumpRecord 32 a.1 a.2 := by
  rw [h.dump, if_pos hk, List.map_eq_flatMap]
  rfl

/-- Settles O30: the events the walk applies are those recorded. -/
theorem debugDumpRecordsEachAppliedEvent : Obligations.DebugDumpRecordsEachAppliedEvent := by
  unfold Obligations.DebugDumpRecordsEachAppliedEvent
  intro s n sl c e elapsed hl hk he ha
  obtain ⟨l, happlied⟩ := walk_applied design (c.walkEnv s.g.volTable) elapsed (c.synth e)
  have hrun := run_liveAt hw design hl he ha
  rw [Chip.engineRun_debugDump hk, happlied.dump_debugDump hk] at hrun
  refine ⟨_, _, _, l, exec_eq _ _, hrun, rfl, rfl, rfl, happlied.queues, fun ho => ?_⟩
  rw [tieOrder_eq_queueRank]
  obtain ⟨order, -⟩ := happlied.order ho
  exact order

end Sys2Proof.Machine
end

section
/-! Two engines side by side: a walk makes the same of registers and queues under any two, and of the generators under any
two that have some (43_synthesis_engine.md R230). -/

namespace Sys2Proof.Machine

open Sys2Proof.Config

/-- The same registers and queues, and engine states in the given relation. -/
structure Synth.Agree (R : EngineState → EngineState → Prop) (w₁ w₂ : Synth) : Prop where
  x : w₁.x = w₂.x
  queues : w₁.queues = w₂.queues
  eng : R w₁.eng w₂.eng

section
variable {D : Design} {env₁ env₂ : WalkEnv} {R : EngineState → EngineState → Prop} {w₁ w₂ : Synth}

/-- One event keeps an agreement that its effects on the engines keep. -/
theorem Synth.Agree.applyEvent {kind₁ kind₂ : EngineKind}
    (event : ∀ r v e₁ e₂, R e₁ e₂ → R (D.model.onEvent kind₁ r v e₁) (D.model.onEvent kind₂ r v e₂))
    (h : Synth.Agree R w₁ w₂) (id : QueueId) (e : Event) :
    Synth.Agree R (Machine.applyEvent D kind₁ id e w₁) (Machine.applyEvent D kind₂ id e w₂) where
  x := by rw [applyEvent_x, applyEvent_x, h.x]
  queues := h.queues
  eng := event _ _ _ _ h.eng

/-- The same of ApplyDue: which event comes next rests on the queues alone. -/
theorem Synth.Agree.applyDue {kind₁ kind₂ : EngineKind}
    (event : ∀ r v e₁ e₂, R e₁ e₂ → R (D.model.onEvent kind₁ r v e₁) (D.model.onEvent kind₂ r v e₂))
    (h : Synth.Agree R w₁ w₂) (lim : Int) :
    Synth.Agree R (Machine.applyDue D kind₁ lim w₁) (Machine.applyDue D kind₂ lim w₂) := by
  refine applyDue_induction (motive := fun w w' => ∀ w₂, Synth.Agree R w w₂ →
    Synth.Agree R w' (Machine.applyDue D kind₂ lim w₂)) (fun w hd w₂ h => ?stop)
    (fun w id e rest hd hq _ w' ih w₂ h => ?turn) w₁ w₂ h
  case stop => rwa [applyDue_none (h.queues ▸ hd)]
  case turn =>
    rw [applyDue_some (h.queues ▸ hd) (h.queues ▸ hq)]
    refine ih _ (Synth.Agree.applyEvent event ?_ id e)
    exact ⟨h.x, congrArg (Queues.set · id rest) h.queues, h.eng⟩

variable
  (event : ∀ r v e₁ e₂, R e₁ e₂ → R (D.model.onEvent env₁.kind r v e₁) (D.model.onEvent env₂.kind r v e₂))
  (step : ∀ x e₁ e₂, R e₁ e₂ →
    R (D.model.stepGenerators env₁.kind env₁.muteRep x e₁) (D.model.stepGenerators env₂.kind env₂.muteRep x e₂))
include event step

/-- The ticks of a walk keep an agreement that every event and every tick of the generators keep. -/
theorem Synth.Agree.walkTicks (h : Synth.Agree R w₁ w₂) (k n : Nat) :
    Synth.Agree R (Machine.walkTicks D env₁ k n w₁).2 (Machine.walkTicks D env₂ k n w₂).2 := by
  induction n generalizing k w₁ w₂ with
  | zero => exact h
  | succ n ih =>
    have ha := h.applyDue event (D.decisions.sequence.due k)
    refine ih (w₁ := tick D env₁ _) (w₂ := tick D env₂ _) ⟨ha.x, ha.queues, ?_⟩ (k + 1)
    rw [tick, tick, ha.x]
    exact step _ _ _ ha.eng

/-- The same of a walk. -/
theorem Synth.Agree.walk (h : Synth.Agree R w₁ w₂) (elapsed : Nat) :
    Synth.Agree R (Machine.walk D env₁ elapsed w₁).2 (Machine.walk D env₂ elapsed w₂).2 :=
  (Synth.Agree.walkTicks event step h 0 (elapsed / 8)).applyDue event _

end

/-! ## Generators -/

/-- The same engine state but for the filter state, which is StepBandlimited's own (10_state.md R42). -/
def EngineState.SameGenerators (e₁ e₂ : EngineState) : Prop := { e₁ with filter := 0 } = { e₂ with filter := 0 }

section
variable {kind₁ kind₂ : EngineKind} (h₁ : kind₁ ≠ .debugDump) (h₂ : kind₂ ≠ .debugDump) {e₁ e₂ : EngineState}
include h₁ h₂

/-- An event makes the same of equal generators, under any two engines that have some. -/
theorem EngineState.SameGenerators.onEvent (h : e₁.SameGenerators e₂) (r : Reg) (v : Byte) :
    (design.model.onEvent kind₁ r v e₁).SameGenerators (design.model.onEvent kind₂ r v e₂) := by
  rw [onEvent_design h₁, onEvent_design h₂]
  split
  · exact congrArg EngineState.restartEnvelope h
  · exact h

/-- So does a tick, whatever is muted. -/
theorem EngineState.SameGenerators.stepGenerators (h : e₁.SameGenerators e₂) (mute₁ mute₂ : BitVec 15) (x : RegFile) :
    (design.model.stepGenerators kind₁ mute₁ x e₁).SameGenerators (design.model.stepGenerators kind₂ mute₂ x e₂) := by
  rw [design_stepGenerators, design_stepGenerators, if_pos (generates_iff.mpr h₁), if_pos (generates_iff.mpr h₂),
    EngineState.SameGenerators, ← stepGenerators_withFilter, ← stepGenerators_withFilter]
  exact congrArg (Machine.stepGenerators decisions x) h

end

/-- Settles O28: the walks agree on registers and queues, whatever the engines do with their states; engines with
generators make the same of them. -/
theorem enginesAgreeOnRegisters : Obligations.EnginesAgreeOnRegisters := by
  unfold Obligations.EnginesAgreeOnRegisters
  intro s₁ s₂ t₁ t₂ n₁ n₂ c₁ c₂ d₁ d₂ e₁ e₂ elapsed hc₁ hc₂ he₁ he₂ ha hx hq hp hr hclk ht₁ ht₂ hd₁ hd₂
  obtain rfl := chip_of_exec_run hc₁ he₁ ha ht₁ hd₁
  obtain rfl := chip_of_exec_run hc₂ he₂ ha ht₂ hd₂
  have registers : Synth.Agree (fun _ _ => True) (walk design (c₁.walkEnv s₁.g.volTable) elapsed (c₁.synth e₁)).2
      (walk design (c₂.walkEnv s₂.g.volTable) elapsed (c₂.synth e₂)).2 :=
    Synth.Agree.walk (fun _ _ _ _ _ => trivial) (fun _ _ _ _ => trivial) ⟨hx, hq, trivial⟩ elapsed
  refine ⟨registers.x, registers.queues, hp, ?answer, fun hk₁ hk₂ he e₁' e₂' he₁' he₂' => ?generators⟩
  case answer =>
    cases ht₁
    cases ht₂
    rw [run_resp hw design hc₁ he₁ ha, run_resp hw design hc₂ he₂ ha]
    simp [Chip.samplesWritten, Chip.bufferSize, hr, hclk]
  case generators =>
    cases he₁'
    cases he₂'
    have start : Synth.Agree EngineState.SameGenerators (c₁.synth e₁) (c₂.synth e₂) := ⟨hx, hq, he⟩
    exact (Synth.Agree.walk (fun r v _ _ h => h.onEvent hk₁ hk₂ r v) (fun x _ _ h => h.stepGenerators hk₁ hk₂ _ _ x)
      start elapsed).eng

end Sys2Proof.Machine
end

section
/-! What an engine with generators emits: the walk tick by tick, the moment an event takes effect, and the samples made of
the ticks (43_synthesis_engine.md R223, R224, R227, R228, R231). -/

namespace Sys2Proof.Machine

open Sys2Proof.Config

/-! ## The walk tick by tick -/

/-- What stands before tick `k` of a walk (43_synthesis_engine.md R223). -/
def beforeTick (D : Design) (env : WalkEnv) (w : Synth) (k : Nat) : Synth := (walkTicks D env 0 k w).2

/-- What stands at tick `k` of a walk, once the events due there are applied (43_synthesis_engine.md R223). -/
def atTick (D : Design) (env : WalkEnv) (w : Synth) (k : Nat) : Synth :=
  applyDue D env.kind (D.decisions.sequence.due k) (beforeTick D env w k)

/-- The first tick of a walk, before the ones after it. -/
theorem walkTicks_cons (D : Design) (env : WalkEnv) (k n : Nat) (w : Synth) :
    let a := applyDue D env.kind (D.decisions.sequence.due k) w
    let r := walkTicks D env (k + 1) n (tick D env a)
    walkTicks D env k (n + 1) w = (a :: r.1, r.2) := rfl

/-- The last tick of a walk, after the ones before it. -/
theorem walkTicks_snoc (D : Design) (env : WalkEnv) (k n : Nat) (w : Synth) :
    let r := walkTicks D env k n w
    let a := applyDue D env.kind (D.decisions.sequence.due (k + n)) r.2
    walkTicks D env k (n + 1) w = (r.1 ++ [a], tick D env a) := by
  induction n generalizing k w with
  | zero => rfl
  | succ n ih =>
    intro r a
    have h := ih (k + 1) (tick D env (applyDue D env.kind (D.decisions.sequence.due k) w))
    rw [Nat.add_right_comm] at h
    rw [walkTicks_cons, h]
    rfl

section
variable (D : Design) (env : WalkEnv) (w : Synth)

@[simp] theorem beforeTick_zero : beforeTick D env w 0 = w := rfl

/-- Between two ticks the generators step, and nothing else happens (43_synthesis_engine.md R223). -/
theorem beforeTick_succ (k : Nat) : beforeTick D env w (k + 1) = tick D env (atTick D env w k) := by
  simp only [beforeTick, atTick, walkTicks_snoc, Nat.zero_add]

/-- The ticks of a walk, in order. -/
theorem walkTicks_fst (n : Nat) : (walkTicks D env 0 n w).1 = (List.range n).map (atTick D env w) := by
  induction n with
  | zero => rfl
  | succ n ih =>
    simp only [walkTicks_snoc, ih, List.range_succ, List.map_append, Nat.zero_add]
    rfl

/-- The walk, tick by tick, and the tail events (43_synthesis_engine.md R223). -/
theorem walk_eq (elapsed : Nat) :
    walk D env elapsed w = ((List.range (elapsed / 8)).map (atTick D env w),
      applyDue D env.kind (D.decisions.sequence.last elapsed) (beforeTick D env w (elapsed / 8))) := by
  rw [← walkTicks_fst]
  rfl

end

/-! ## Events at a tick -/

/-- What has been applied before tick `k` is stamped up to the tick before it. -/
theorem beforeTick_applied (env : WalkEnv) (w : Synth) (k : Nat) :
    ∃ l, Applied design env.kind (8 * k - 8) l w (beforeTick design env w k) :=
  walkTicks_applied design env k 0 w _ fun j hj => by
    rw [design_decisions, decisions_due]
    omega

section
variable {env : WalkEnv} {w : Synth}

/-- The queues stay in stamp order. -/
theorem beforeTick_ordered (ho : w.queues.Ordered) (k : Nat) : (beforeTick design env w k).queues.Ordered := by
  obtain ⟨l, hl⟩ := beforeTick_applied env w k
  exact hl.ordered ho

/-- What is queued before tick `k`: everything before tick 0, else what is stamped beyond the tick before it
(43_synthesis_engine.md R223). -/
theorem mem_beforeTick (ho : w.queues.Ordered) {k : Nat} {id : QueueId} {ev : Event} :
    ev ∈ (beforeTick design env w k).queues.get id ↔ ev ∈ w.queues.get id ∧ (k = 0 ∨ 8 * (k : Int) - 8 < ev.ts) := by
  cases k with
  | zero => simp
  | succ k =>
    obtain ⟨l, hl⟩ := beforeTick_applied env w (k + 1)
    have hlim : 8 * ((k + 1 : Nat) : Int) - 8 = 8 * k := by omega
    have hn : (beforeTick design env w (k + 1)).queues.nextDue queueRank (8 * (k + 1 : Nat) - 8) = none := by
      rw [hlim, beforeTick_succ, tick_queues]
      exact applyDue_nextDue design env.kind (8 * k) (beforeTick design env w k)
    rw [hl.rest ho hn]
    simp

/-- The registers at tick `k` are those once the events stamped up to `8 k` have been applied
(43_synthesis_engine.md R223). -/
theorem atTick_commits (ho : w.queues.Ordered) (k : Nat) (i : Reg) :
    w.queues.Commits queueRank (8 * k) i (w.x.get i) ((atTick design env w k).x.get i) := by
  obtain ⟨l, hl⟩ := beforeTick_applied env w k
  obtain ⟨l', hl', -, hn⟩ := applyDue_applied design env.kind (8 * k) (beforeTick design env w k)
  exact ((hl.mono (by omega)).trans hl').commits ho hn i

/-- What ApplyDue makes of the engine: a restart of the envelope exactly if an event for register 13 is due
(43_synthesis_engine.md R224). -/
theorem applyDue_restarts {kind : EngineKind} (hk : kind ≠ .debugDump) (ho : w.queues.Ordered) (lim : Int) :
    let due := ∃ id, ∃ ev ∈ w.queues.get id, ev.reg = 13 ∧ ev.ts ≤ lim
    (due → (applyDue design kind lim w).eng = w.eng.restartEnvelope) ∧
      (¬due → (applyDue design kind lim w).eng = w.eng) := by
  intro due
  obtain ⟨l, hl, he, hn⟩ := applyDue_applied design kind lim w
  have hdue : due ↔ ∃ a ∈ l, a.2.reg = 13 := by
    constructor
    · rintro ⟨id, ev, hev, hreg, hts⟩
      rw [hl.queues id] at hev
      rcases List.mem_append.mp hev with hev | hev
      · exact ⟨_, mem_fromQueue.mp hev, hreg⟩
      · have := lt_of_nextDue_none (hl.ordered ho) hn id hev
        omega
    · rintro ⟨⟨id, ev⟩, hmem, hreg⟩
      refine ⟨id, ev, ?_, hreg, hl.due _ hmem⟩
      rw [hl.queues id]
      exact List.mem_append_left _ (mem_fromQueue.mpr hmem)
  rw [he, reactTo, foldl_onEvent hk, hdue]
  exact ⟨fun h => if_pos h, fun h => if_neg h⟩

/-- The events applied on top of those before tick `k`: the envelope is restarted exactly if one for register 13 came due
since the tick before (43_synthesis_engine.md R224, 44_generators.md R263). -/
theorem applyDue_beforeTick_restarts (hk : env.kind ≠ .debugDump) (ho : w.queues.Ordered) (k : Nat)
    (lim : Int) :
    let before := beforeTick design env w k
    let due := ∃ id, ∃ ev ∈ w.queues.get id, ev.reg = 13 ∧ ev.ts ≤ lim ∧ (k = 0 ∨ 8 * (k : Int) - 8 < ev.ts)
    (due → (applyDue design env.kind lim before).eng = before.eng.restartEnvelope) ∧
      (¬due → (applyDue design env.kind lim before).eng = before.eng) := by
  have h := applyDue_restarts hk (beforeTick_ordered (env := env) ho k) lim
  simpa only [mem_beforeTick ho, and_assoc, and_left_comm, and_comm] using h

end

/-! ## Samples -/

/-- A walk leaves StepBandlimited's filter state to BlepOut (43_synthesis_engine.md R228). -/
theorem walk_filter (env : WalkEnv) (elapsed : Nat) (w : Synth) :
    (walk design env elapsed w).2.eng.filter = w.eng.filter := by
  have event (r : Reg) (v : Byte) (e : EngineState) (h : e.filter = w.eng.filter) :
      (design.model.onEvent env.kind r v e).filter = w.eng.filter := by
    rw [design_onEvent, onEvent]
    split_ifs <;> exact h
  have step (x : RegFile) (e : EngineState) (h : e.filter = w.eng.filter) :
      (design.model.stepGenerators env.kind env.muteRep x e).filter = w.eng.filter := by
    rw [design_stepGenerators]
    split
    · rw [stepGenerators_filter, h]
    · exact h
  exact applyDue_eng (p := fun e => e.filter = w.eng.filter) event _ (walkTicks_eng event step 0 _ rfl)

/-- An engine with generators records nothing (43_synthesis_engine.md R224). -/
theorem Applied.dump_generating {kind : EngineKind} (hk : kind ≠ .debugDump) {lim : Int} {l : List Taken} {w w' : Synth}
    (h : Applied design kind lim l w w') : w'.dump = w.dump := by
  rw [h.dump, if_neg hk, List.append_nil]

/-- PulseOut of the samples of `K` ticks takes those of existing ticks (43_synthesis_engine.md R231). -/
theorem pulseOut_map_range (mixed : Nat → Sample) {k n : Nat} (hn : 0 < n → 0 < k) :
    pulseOut ((List.range k).map mixed) k n = (List.range n).map fun j => mixed (j * k / n) := by
  refine List.map_congr_left fun j hj => ?_
  have hj : j < n := List.mem_range.mp hj
  have hlt := pulseIndex_lt hj (hn (Nat.zero_lt_of_lt hj))
  simp [hlt]

/-- The output of an engine with generators, of the samples of `K` ticks (43_synthesis_engine.md R227, R228). -/
theorem engineOut_generating (P : Params) {kind : EngineKind} (hk : kind ≠ .debugDump) (filter : Nat)
    (mixed : Nat → Sample) {k n : Nat} (hn : 0 < n → 0 < k) :
    engineOut P design kind filter ((List.range k).map mixed) k n =
      if kind = .pulse then ((List.range n).map fun j => mixed (j * k / n), filter)
      else P.blepOut filter ((List.range k).map mixed) k n := by
  cases kind with
  | pulse => rw [← pulseOut_map_range mixed hn]; rfl
  | stepBandlimited => rfl
  | debugDump => exact absurd rfl hk

/-- A block with an output sample has a tick. -/
theorem ticks_pos_of_count_pos {elapsed rate clock : Nat} (ha : elapsed % 32 = 0) (hn : 0 < elapsed * rate / clock) :
    0 < elapsed / 8 := by
  rcases Nat.eq_zero_or_pos elapsed with rfl | hpos
  · simp at hn
  · omega

/-- The sample of tick `k` of a run of an engine with generators (43_synthesis_engine.md R223). -/
def Chip.mixedTick (t : VolTable) (c : Chip) (e : EngineState) (k : Nat) : Sample :=
  let w := atTick design (c.walkEnv t) (c.synth e) k
  mixSample decisions t c.muteRep w.x w.eng

/-- The samples of a run of an engine with generators, and its filter state after them (43_synthesis_engine.md R227,
R228). -/
def Chip.generatedOut (P : Params) (t : VolTable) (c : Chip) (e : EngineState) (elapsed : Nat) : List Sample × Nat :=
  let ticks := elapsed / 8
  let count := elapsed * c.sampleRateHz / c.clockHz
  if c.engineKind = .pulse then ((List.range count).map fun j => c.mixedTick t e (j * ticks / count), e.filter)
  else P.blepOut e.filter ((List.range ticks).map (c.mixedTick t e)) ticks count

section
variable {c : Chip} (hk : c.engineKind ≠ .debugDump) {elapsed : Nat}
include hk

/-- The run of an engine with generators: its output is made of the mixed ticks, and nothing is recorded
(43_synthesis_engine.md R221, R227, R228). -/
theorem Chip.engineRun_generating (P : Params) (t : VolTable) (e : EngineState) (ha : elapsed % 32 = 0) :
    let w := (walk design (c.walkEnv t) elapsed (c.synth e)).2
    let out := c.generatedOut P t e elapsed
    c.engineRun P design t e elapsed =
      { pcm := out.1
        dump := []
        chip := { c with x := w.x, queues := w.queues, binding := .running { w.eng with filter := out.2 } } } := by
  intro w out
  have hdump : w.dump = [] := by
    obtain ⟨l, hl⟩ := walk_applied design (c.walkEnv t) elapsed (c.synth e)
    exact hl.dump_generating hk
  have hmixed : tickSample design (c.walkEnv t) ∘ atTick design (c.walkEnv t) (c.synth e) = c.mixedTick t e := by
    funext k
    exact if_pos (generates_iff.mpr hk)
  have hout : engineOut P design c.engineKind w.eng.filter
      ((walk design (c.walkEnv t) elapsed (c.synth e)).1.map (tickSample design (c.walkEnv t))) (elapsed / 8)
      (c.samplesWritten design elapsed) = out := by
    rw [walk_filter, walk_eq, List.map_map, hmixed]
    exact engineOut_generating P hk e.filter _ (ticks_pos_of_count_pos ha)
  rw [Chip.engineRun, hout, hdump]
  rfl

/-- A RUN of an engine with generators changes its slot alone, and leaves the DUMP stream (43_synthesis_engine.md R220,
R221). -/
theorem run_changedOnly_generating {s : State} {n : SlotNo} {sl : Slot} {e : EngineState} (h : s.LiveAt n sl c)
    (he : c.binding.engine? = some e) (ha : elapsed % 32 = 0) :
    let w := (walk design (c.walkEnv s.g.volTable) elapsed (c.synth e)).2
    let out := c.generatedOut hw s.g.volTable e elapsed
    ChangedOnly s (run hw design (.slot n) elapsed true s) n
      { life := .live { c with x := w.x, queues := w.queues, binding := .running { w.eng with filter := out.2 } }
        pcm := sl.pcm ++ out.1
        dump := sl.dump } (resultWord (elapsed * c.sampleRateHz / c.clockHz)) := by
  have hrun := run_changedOnly h he ha
  simp only [Chip.engineRun_generating hk hw s.g.volTable e ha, List.append_nil] at hrun
  exact hrun

end

/-- Settles O26: the witnesses are the walk's own states, before and at each tick and at its end. -/
theorem runEmitsMixedTicks : Obligations.RunEmitsMixedTicks := by
  unfold Obligations.RunEmitsMixedTicks
  intro s n sl c e elapsed hl hk he ho ha ticks count restarted
  have ho' : (c.synth e).queues.Ordered := ho
  let env := c.walkEnv s.g.volTable
  refine ⟨fun k => (atTick design env (c.synth e) k).x, fun k => (beforeTick design env (c.synth e) k).eng,
    fun k => (atTick design env (c.synth e) k).eng, _, _, _, _, exec_eq _ _, rfl, fun k _ => ⟨?registers, ?event, ?step⟩,
    ?commits, walk_design_queues_get env elapsed ho', ?tail, run_changedOnly_generating hk hl he ha⟩
  case registers =>
    rw [tieOrder_eq_queueRank]
    exact atTick_commits ho' k
  case event => exact applyDue_beforeTick_restarts (env := env) hk ho' k (8 * k)
  case step =>
    simp only [beforeTick_succ, tick]
    exact if_pos (generates_iff.mpr hk)
  case commits =>
    rw [tieOrder_eq_queueRank]
    exact walk_commits design env elapsed ho'
  case tail =>
    have hspan : 8 * ((elapsed / 8 : Nat) : Int) = elapsed := by omega
    have hempty : elapsed / 8 = 0 ↔ elapsed = 0 := by omega
    have htail := applyDue_beforeTick_restarts (env := env) hk ho' (elapsed / 8) (elapsed - 1)
    simp only [hspan, hempty, Int.le_sub_one_iff] at htail
    rw [walk_eq]
    exact htail

end Sys2Proof.Machine
end

section
/-! The generators: the counters that give the tones, the noise and the envelope their periods, and the noise register
bit by bit (44_generators.md R260 to R263). -/

namespace Sys2Proof.Machine

open Sys2Proof.Config

/-! ## Counters and fields -/

/-- A counter that starts again from 0 at a period `p` and acts on a value then: from 0 it counts `p - 1` ticks on, and
acts at the `p`-th (44_generators.md R261 to R263). -/
theorem iterate_counter {σ α β : Type} {n p : Nat} {tick : σ → σ} {part : σ → α} {mk : BitVec n → β → α} {act : β → β}
    (hp : 0 < p) (hn : p ≤ 2 ^ n)
    (step : ∀ s c v, part s = mk c v → part (tick s) = if p ≤ c.toNat + 1 then mk 0 (act v) else mk (c + 1) v)
    {s : σ} {v : β} (h : part s = mk 0 v) :
    (∀ k < p, part (tick^[k] s) = mk (BitVec.ofNat n k) v) ∧ part (tick^[p] s) = mk 0 (act v) := by
  have toNat (k : Nat) (hk : k < p) : (BitVec.ofNat n k).toNat = k := Nat.mod_eq_of_lt (hk.trans_le hn)
  have counts : ∀ k < p, part (tick^[k] s) = mk (BitVec.ofNat n k) v := by
    intro k hk
    induction k with
    | zero => exact h
    | succ k ih =>
      have hk' : k < p := by omega
      rw [Function.iterate_succ_apply', step _ _ _ (ih hk'), toNat k hk', if_neg (by omega), BitVec.ofNat_add]
      rfl
  obtain ⟨k, rfl⟩ : ∃ k, p = k + 1 := ⟨p - 1, by omega⟩
  have last : k < k + 1 := Nat.lt_succ_self k
  refine ⟨counts, ?_⟩
  rw [Function.iterate_succ_apply', step _ _ _ (counts k last), toNat k last, if_pos le_rfl]

/-- A pair of fields as a number. -/
theorem toNat_append_eq_add {n m : Nat} (high : BitVec n) (low : BitVec m) :
    (high ++ low).toNat = high.toNat * 2 ^ m + low.toNat := by
  rw [BitVec.toNat_append, ← Nat.shiftLeft_add_eq_or_of_lt low.isLt, Nat.shiftLeft_eq]

/-- The low bits of a word as a number. -/
theorem toNat_extract_low {n : Nat} (v : BitVec n) (m : Nat) : (v.extractLsb' 0 m).toNat = v.toNat % 2 ^ m := by
  rw [BitVec.extractLsb'_toNat, Nat.shiftRight_zero]

/-- A period is never 0 (44_generators.md R261 to R263). -/
theorem atLeastOne_pos (n : Nat) : 0 < atLeastOne n := Nat.le_max_left 1 n

/-- The period of a field lies in the range of a counter of its width. -/
theorem atLeastOne_le {n : Nat} (v : BitVec n) : atLeastOne v.toNat ≤ 2 ^ n :=
  Nat.max_le.mpr ⟨Nat.two_pow_pos n, v.isLt.le⟩

/-! ## Tone -/

/-- TP as a number (10_state.md R23). -/
theorem tonePeriod_eq (x : RegFile) (ch : Channel) :
    tonePeriod decisions x ch =
      max 1 ((x.get (registerMap.tonePeriodHigh ch)).toNat % 16 * 256 + (x.get (registerMap.tonePeriodLow ch)).toNat) :=
  congrArg (max 1) ((toNat_append_eq_add _ _).trans (congrArg (· * 256 + _) (toNat_extract_low _ 4)))

/-- A tick of the generators steps the tone of each channel (44_generators.md R260). -/
theorem stepGenerators_tone (x : RegFile) (e : EngineState) (ch : Channel) :
    (stepGenerators decisions x e).tone.get ch = stepTone (tonePeriod decisions x ch) (e.tone.get ch) := by
  rw [stepGenerators, stepEnvelope_tone, stepNoise_tone]
  cases ch <;> rfl

/-- From a fresh count the phase of a channel turns round at every period (44_generators.md R261). -/
theorem stepGenerators_iterate_tone (x : RegFile) (ch : Channel) {e : EngineState} (he : (e.tone.get ch).count = 0) :
    let p := tonePeriod decisions x ch
    let after (k : Nat) := ((stepGenerators decisions x)^[k] e).tone.get ch
    let phase := (e.tone.get ch).phase
    (∀ k < p, after k = ⟨BitVec.ofNat 12 k, phase⟩) ∧ after p = ⟨0, !phase⟩ := by
  refine iterate_counter (part := fun e : EngineState => e.tone.get ch) (mk := ToneGen.mk) (act := not)
    (atLeastOne_pos _) (atLeastOne_le (toneField decisions x ch)) (fun e c v h => ?_) (congrArg (ToneGen.mk · _) he)
  rw [stepGenerators_tone, h]
  rfl

/-- Settles O37: the tone's counter, with the phase turned round at each period. -/
theorem toneHalfPeriod : Obligations.ToneHalfPeriod := by
  unfold Obligations.ToneHalfPeriod
  intro x e ch bytes period
  have hperiod : period = tonePeriod decisions x ch := by
    rw [tonePeriod_eq]
    cases ch <;> rfl
  rw [hperiod]
  exact ⟨stepGenerators_tone x e ch, stepGenerators_iterate_tone x ch⟩

/-! ## Noise -/

/-- Each bit but the highest comes from the bit above it (44_generators.md R262). -/
theorem shiftLfsr_getLsbD (v : BitVec 17) {j : Nat} (hj : j < 16) : (shiftLfsr v).getLsbD j = v.getLsbD (j + 1) := by
  simp [shiftLfsr, hj, Nat.add_comm]

/-- The feedback enters at the highest bit (44_generators.md R262). -/
theorem shiftLfsr_getLsbD_highest (v : BitVec 17) : (shiftLfsr v).getLsbD 16 = (v.getLsbD 0 ^^ v.getLsbD 3) := by
  simp [shiftLfsr]

/-- No two values shift to the same: the bits above the lowest stand in the shifted value, and the feedback gives the
lowest (44_generators.md R262). -/
theorem shiftLfsr_injective : Function.Injective shiftLfsr := by
  intro v v' h
  have upper (j : Nat) (hj : j < 16) : v.getLsbD (j + 1) = v'.getLsbD (j + 1) := by
    rw [← shiftLfsr_getLsbD v hj, h, shiftLfsr_getLsbD v' hj]
  have feedback : (v.getLsbD 0 ^^ v.getLsbD 3) = (v'.getLsbD 0 ^^ v'.getLsbD 3) := by
    rw [← shiftLfsr_getLsbD_highest, h, shiftLfsr_getLsbD_highest]
  refine BitVec.eq_of_getLsbD_eq fun j hj => ?_
  cases j with
  | zero =>
    rw [upper 2 (by decide)] at feedback
    exact Bool.xor_left_inj.mp feedback
  | succ j => exact upper j (by omega)

/-- NP as a number (10_state.md R24). -/
theorem noisePeriod_eq (x : RegFile) : noisePeriod decisions x = max 1 ((x.get 6).toNat % 32) :=
  congrArg (max 1) (toNat_extract_low (x.get 6) 5)

/-- The noise's counter and register after a tick of it (44_generators.md R262). -/
theorem stepNoise_counter (p : Nat) (e : EngineState) :
    ((stepNoise p e).noiseCnt, (stepNoise p e).lfsr) =
      if 2 * p ≤ e.noiseCnt.toNat + 1 then (0, shiftLfsr e.lfsr) else (e.noiseCnt + 1, e.lfsr) := by
  unfold stepNoise
  split <;> rfl

/-- A tick of the generators steps the noise (44_generators.md R260). -/
theorem stepGenerators_noise (x : RegFile) (e : EngineState) :
    ((stepGenerators decisions x e).noiseCnt, (stepGenerators decisions x e).lfsr) =
      if 2 * noisePeriod decisions x ≤ e.noiseCnt.toNat + 1 then (0, shiftLfsr e.lfsr)
      else (e.noiseCnt + 1, e.lfsr) := by
  rw [stepGenerators, stepEnvelope_noiseCnt, stepEnvelope_lfsr]
  exact stepNoise_counter _ (stepTones decisions x e)

/-- From a fresh count the noise register is shifted at every period (44_generators.md R262). -/
theorem stepGenerators_iterate_noise (x : RegFile) {e : EngineState} (he : e.noiseCnt = 0) :
    let p := 2 * noisePeriod decisions x
    let after (k : Nat) := (((stepGenerators decisions x)^[k] e).noiseCnt, ((stepGenerators decisions x)^[k] e).lfsr)
    (∀ k < p, after k = (BitVec.ofNat 6 k, e.lfsr)) ∧ after p = (0, shiftLfsr e.lfsr) := by
  have hpos : 0 < noisePeriod decisions x := atLeastOne_pos _
  have hle : noisePeriod decisions x ≤ 2 ^ 5 := atLeastOne_le (noiseField decisions x)
  refine iterate_counter (part := fun e : EngineState => (e.noiseCnt, e.lfsr)) (by omega) (by omega) ?_
    (congrArg (·, e.lfsr) he)
  rintro e c v ⟨⟩
  exact stepGenerators_noise x e

/-- Settles O38: the noise's counter, with a shift of the register at each period. -/
theorem noiseRegisterRuns : Obligations.NoiseRegisterRuns := by
  unfold Obligations.NoiseRegisterRuns
  refine ⟨fun v => ⟨fun j hj => shiftLfsr_getLsbD v hj, shiftLfsr_getLsbD_highest v⟩, fun v => shiftLfsr_ne_zero,
    fun v v' h => shiftLfsr_injective h, fun x e => ?_⟩
  rw [← noisePeriod_eq]
  exact ⟨stepGenerators_noise x e, stepGenerators_iterate_noise x⟩

/-! ## Envelope -/

/-- EP as a number (10_state.md R27). -/
theorem envPeriod_eq (x : RegFile) :
    envPeriod decisions x = max 1 ((x.get 12).toNat * 256 + (x.get 11).toNat) :=
  congrArg (max 1) (toNat_append_eq_add (x.get 12) (x.get 11))

/-- The envelope's counter and position after a tick of it (44_generators.md R263). -/
theorem stepEnvelope_counter (p : Nat) (e : EngineState) :
    ((stepEnvelope p e).envCnt, (stepEnvelope p e).envPos) =
      if p ≤ e.envCnt.toNat + 1 then (0, e.envPos + 1) else (e.envCnt + 1, e.envPos) := by
  unfold stepEnvelope
  split <;> rfl

/-- A tick of the generators steps the envelope (44_generators.md R260). -/
theorem stepGenerators_envelope (x : RegFile) (e : EngineState) :
    ((stepGenerators decisions x e).envCnt, (stepGenerators decisions x e).envPos) =
      if envPeriod decisions x ≤ e.envCnt.toNat + 1 then (0, e.envPos + 1) else (e.envCnt + 1, e.envPos) := by
  rw [stepGenerators, stepEnvelope_counter, stepNoise_envCnt, stepNoise_envPos, stepTones_envCnt, stepTones_envPos]

/-- From a fresh count the envelope moves one position up at every period (44_generators.md R263). -/
theorem stepGenerators_iterate_envelope (x : RegFile) {e : EngineState} (he : e.envCnt = 0) :
    let p := envPeriod decisions x
    let after (k : Nat) := (((stepGenerators decisions x)^[k] e).envCnt, ((stepGenerators decisions x)^[k] e).envPos)
    (∀ k < p, after k = (BitVec.ofNat 16 k, e.envPos)) ∧ after p = (0, e.envPos + 1) := by
  refine iterate_counter (part := fun e : EngineState => (e.envCnt, e.envPos)) (act := (· + 1)) (atLeastOne_pos _)
    (atLeastOne_le (envField decisions x)) ?_ (congrArg (·, e.envPos) he)
  rintro e c v ⟨⟩
  exact stepGenerators_envelope x e

/-- No number of ticks touches the filter state (44_generators.md R260). -/
theorem stepGenerators_iterate_filter (d : Decisions) (x : RegFile) (e : EngineState) (k : Nat) :
    ((stepGenerators d x)^[k] e).filter = e.filter := by
  induction k with
  | zero => rfl
  | succ k ih => rw [Function.iterate_succ_apply', stepGenerators_filter, ih]

/-- Settles O40: the envelope's counter, with one position up at each period. -/
theorem envelopeStepPeriod : Obligations.EnvelopeStepPeriod := by
  unfold Obligations.EnvelopeStepPeriod
  intro x e
  rw [← envPeriod_eq]
  exact ⟨stepGenerators_envelope x e, stepGenerators_iterate_envelope x, stepGenerators_iterate_filter decisions x e⟩

end Sys2Proof.Machine
end

section
/-! The envelope's shape, and the levels and gates the mixer reads (44_generators.md R264 to R266). -/

namespace Sys2Proof.Machine

open Sys2Proof.Config

/-! ## The envelope's shape -/

/-- The level at the given place of a ramp, up or down (44_generators.md R264). -/
def rampLevel (up : Bool) (r : Nat) : Nat := if up then r else 31 - r

section
variable (shape : BitVec 4) {p : Nat}

/-- The first ramp (44_generators.md R264). -/
theorem shapeLevel_first (hp : p < 32) : shapeLevel bitFields shape p = rampLevel (shapeAtt shape) p := by
  rw [shapeLevel, Nat.div_eq_of_lt hp, Nat.mod_eq_of_lt hp]
  rfl

/-- After the first ramp: 0 without CONT, held with HOLD, else one ramp after the other (44_generators.md R264). -/
theorem shapeLevel_later (hp : 32 ≤ p) :
    shapeLevel bitFields shape p =
      if shapeCont shape = false then 0
      else if shapeHold shape then if shapeAtt shape = shapeAlt shape then 0 else 31
      else rampLevel (shapeAtt shape ^^ (shapeAlt shape && decide (p / 32 % 2 = 1))) (p % 32) := by
  have hlater : p / 32 ≠ 0 := by omega
  have level : shapeLevel bitFields shape p =
      if !shapeCont shape then 0
      else if shapeHold shape then if shapeAtt shape != shapeAlt shape then 31 else 0
      else rampLevel (shapeAtt shape ^^ (shapeAlt shape && decide (p / 32 % 2 = 1))) (p % 32) := if_neg hlater
  have held : (if shapeAtt shape != shapeAlt shape then 31 else 0) =
      if shapeAtt shape = shapeAlt shape then 0 else 31 := by
    cases shapeAtt shape <;> cases shapeAlt shape <;> rfl
  rw [level, held]
  cases shapeCont shape <;> rfl

/-- From position 32 on the shape has period 64 (44_generators.md R264). -/
theorem shapeLevel_add_period (hp : 32 ≤ p) :
    shapeLevel bitFields shape (p + 64) = shapeLevel bitFields shape p := by
  have hramp : (p + 64) / 32 % 2 = p / 32 % 2 := by omega
  have hplace : (p + 64) % 32 = p % 32 := by omega
  rw [shapeLevel_later shape (Nat.le_add_right_of_le hp), shapeLevel_later shape hp, hramp, hplace]

/-- A level has 5 bits (44_generators.md R264). -/
theorem shapeLevel_le (p : Nat) : shapeLevel bitFields shape p ≤ 31 := by
  have ramp (up : Bool) {r : Nat} (hr : r < 32) : rampLevel up r ≤ 31 := by
    unfold rampLevel
    split <;> omega
  rcases Nat.lt_or_ge p 32 with hp | hp
  · rw [shapeLevel_first shape hp]
    exact ramp _ hp
  · rw [shapeLevel_later shape hp]
    split_ifs
    · exact Nat.zero_le _
    · exact Nat.zero_le _
    · exact le_rfl
    · exact ramp _ (Nat.mod_lt p (by decide))

end

/-- Settles O39: the first ramp, and what CONT, HOLD, ATT and ALT make of the positions after it. -/
theorem envelopeShape : Obligations.EnvelopeShape := by
  unfold Obligations.EnvelopeShape
  intro shape p hold alt att cont level
  refine ⟨shapeLevel_le shape p, shapeLevel_first shape, fun hp hc => ?zero,
    fun hp (hc : shapeCont shape = true) hh => ?held,
    fun hp (hc : shapeCont shape = true) (hh : shapeHold shape = false) => ?ramps, shapeLevel_add_period shape⟩
  case zero => exact (shapeLevel_later shape hp).trans (if_pos hc)
  case held => exact (shapeLevel_later shape hp).trans ((if_neg (by simp [hc])).trans (if_pos hh))
  case ramps => exact (shapeLevel_later shape hp).trans ((if_neg (by simp [hc])).trans (if_neg (by simp [hh])))

/-! ## Levels -/

/-- The shape is the low half of its register (10_state.md R28). -/
theorem shapeField_eq (x : RegFile) : shapeField decisions x = (x.get 13).setWidth 4 :=
  (BitVec.setWidth_eq_extractLsb' (by decide)).symm

/-- LevelEnv loses nothing of a level of the envelope (44_generators.md R265). -/
theorem levelEnv_shapeLevel_toNat (shape : BitVec 4) (p : Nat) :
    (levelEnv (shapeLevel bitFields shape p)).toNat = shapeLevel bitFields shape p :=
  Nat.mod_eq_of_lt (Nat.lt_succ_of_le (shapeLevel_le shape p))

/-- LevelFixed as a number (44_generators.md R265). -/
theorem levelFixed_toNat (v : BitVec 4) : (levelFixed v).toNat = if v.toNat = 0 then 0 else 2 * v.toNat + 1 := by
  revert v
  decide

/-- The level of a channel as a number, by its volume register (44_generators.md R265). -/
theorem channelLevel_toNat (x : RegFile) (e : EngineState) (ch : Channel) :
    let v := x.get (registerMap.volume ch)
    (channelLevel decisions x e ch).toNat =
      if v.getLsbD 4 then shapeLevel bitFields ((x.get 13).setWidth 4) e.envPos
      else if v.toNat % 16 = 0 then 0 else 2 * (v.toNat % 16) + 1 := by
  intro v
  have level : channelLevel decisions x e ch =
      if v.getLsbD 4 then levelEnv (shapeLevel bitFields (shapeField decisions x) e.envPos)
      else levelFixed (v.extractLsb' 0 4) := rfl
  rw [level, apply_ite BitVec.toNat, levelEnv_shapeLevel_toNat, shapeField_eq, levelFixed_toNat, toNat_extract_low]
  rfl

/-- Settles O41: the volume register of each channel. -/
theorem levelSelect : Obligations.LevelSelect := by
  unfold Obligations.LevelSelect
  intro x e ch
  cases ch <;> exact channelLevel_toNat x e _

/-! ## The mixer -/

/-- Packed triples are masked level by level (10_state.md R36). -/
theorem packLevels_and (la lb lc la' lb' lc' : Level) :
    packLevels la lb lc &&& packLevels la' lb' lc' = packLevels (la &&& la') (lb &&& lb') (lc &&& lc') := by
  rw [packLevels, packLevels, BitVec.and_append, BitVec.and_append, packLevels]

/-- A packed triple as a number (44_generators.md R266). -/
theorem packLevels_toNat (la lb lc : Level) :
    (packLevels la lb lc).toNat = la.toNat + 32 * lb.toNat + 1024 * lc.toNat := by
  rw [packLevels, toNat_append_eq_add, toNat_append_eq_add]
  omega

/-- The level mask of a channel: all ones where it is heard (10_state.md R36). -/
def levelMask (heard : Bool) : Level := if heard then 31 else 0

/-- A muted channel's level is 0, any other is kept (10_state.md R36). -/
theorem and_levelMask (l : Level) (heard : Bool) : l &&& levelMask heard = if heard then l else 0 := by
  cases heard with
  | false => exact BitVec.and_zero
  | true => exact BitVec.and_allOnes

/-- MUTE_LUT packs the level masks of the three channels (10_state.md R36). -/
theorem muteLut_eq_packLevels (mask : BitVec 3) :
    muteLut mask =
      packLevels (levelMask (mask.getLsbD 0)) (levelMask (mask.getLsbD 1)) (levelMask (mask.getLsbD 2)) := by
  revert mask
  decide

/-- The mixer reads the entry of the gated levels, a muted channel's replaced by 0 (44_generators.md R266). -/
theorem mixSample_muteLut (t : VolTable) (mask : BitVec 3) (x : RegFile) (e : EngineState) :
    mixSample decisions t (muteLut mask) x e =
      t.read decisions (packLevels (if mask.getLsbD 0 then gatedLevel decisions x e .a else 0)
        (if mask.getLsbD 1 then gatedLevel decisions x e .b else 0)
        (if mask.getLsbD 2 then gatedLevel decisions x e .c else 0)) := by
  rw [mixSample, packedLevels, decisions_pack, muteLut_eq_packLevels, packLevels_and]
  simp only [and_levelMask]

/-- Settles O42: MUTE_LUT masks level by level, and a packed triple is read as its levels. -/
theorem mutedChannelsReadLevelZero : Obligations.MutedChannelsReadLevelZero := by
  unfold Obligations.MutedChannelsReadLevelZero
  refine ⟨fun x e ch => ?gate, by decide, fun t la lb lc => ⟨packLevels_toNat la lb lc, read_packLevels t la lb lc⟩,
    mixSample_muteLut⟩
  case gate => cases ch <;> rfl

end Sys2Proof.Machine
end

section
/-! Silent defaults: on the power-on registers every channel stands at level 0, so that nothing but 0 is mixed and
emitted (44_generators.md R267). -/

namespace Sys2Proof.Machine

open Sys2Proof.Config

/-- No channel sounds on the power-on registers: their volumes are 0 (10_state.md R46). -/
theorem gatedLevel_powerOn (e : EngineState) (ch : Channel) : gatedLevel decisions powerOnRegisters e ch = 0 := by
  have level : channelLevel decisions powerOnRegisters e ch = 0 := by cases ch <;> rfl
  rw [gatedLevel, level, ite_self]

/-- The entry of three levels 0 is 0, for either model (42_volume_table.md R201). -/
theorem volEntry_zero (P : Params) (m : VolModel) (peak : Nat) : volEntry P decisions m peak 0 0 0 = 0 := by
  have entry : volEntry P decisions m peak 0 0 0 =
      peak * (contribution P m 0 + contribution P m 0 + contribution P m 0) / (3 * contributionMax P m) := rfl
  rw [entry, contribution_zero, Nat.mul_zero, Nat.zero_div]

/-- What is read of a built table at index 0 is 0 (42_volume_table.md R201). -/
theorem read_buildVolumeTable_zero (P : Params) (m : VolModel) (peak : Nat) :
    (buildVolumeTable P decisions m peak).read decisions 0 = 0 := by
  have entry : volEntry P decisions m peak (unpackLevels 0).1.toFin (unpackLevels 0).2.1.toFin
      (unpackLevels 0).2.2.toFin = 0 := volEntry_zero P m peak
  rw [read_buildVolumeTable, entry]
  decide

/-- On the power-on registers the mixer reads 0, whatever the mask (44_generators.md R267). -/
theorem mixSample_powerOn (P : Params) (m : VolModel) (peak : Nat) (mute : BitVec 15) (e : EngineState) :
    mixSample decisions (buildVolumeTable P decisions m peak) mute powerOnRegisters e = 0 := by
  have packed : packedLevels decisions powerOnRegisters e = 0 := by
    simp only [packedLevels, gatedLevel_powerOn]
    rfl
  have masked : (0 : BitVec 15) &&& mute = 0 := BitVec.zero_and
  rw [mixSample, packed, masked]
  exact read_buildVolumeTable_zero P m peak

/-- From empty queues nothing is applied (43_synthesis_engine.md R223). -/
theorem Applied.eq_nil_of_empty {D : Design} {kind : EngineKind} {lim : Int} {l : List Taken} {w w' : Synth}
    (h : Applied D kind lim l w w') (hq : w.queues = Queues.empty) : l = [] := by
  refine List.eq_nil_iff_forall_not_mem.mpr fun a ha => ?_
  have queued : a.2 ∈ w.queues.get a.1 := by
    rw [h.queues a.1]
    exact List.mem_append_left _ (mem_fromQueue.mpr ha)
  simp [hq] at queued

/-- With nothing queued the registers at every tick are those before the run (43_synthesis_engine.md R223). -/
theorem atTick_x_of_empty (env : WalkEnv) {w : Synth} (hq : w.queues = Queues.empty) (k : Nat) :
    (atTick design env w k).x = w.x := by
  obtain ⟨l, hl⟩ := beforeTick_applied env w k
  obtain ⟨l', hl', -, -⟩ := applyDue_applied design env.kind (8 * k) (beforeTick design env w k)
  have applied : Applied design env.kind (8 * k) (l ++ l') w (atTick design env w k) := (hl.mono (by omega)).trans hl'
  rw [applied.x, applied.eq_nil_of_empty hq, List.foldl_nil]

section
variable {c : Chip} (hx : c.x = powerOnRegisters) (hq : c.queues = ⟨[], [], []⟩)
include hx hq

/-- Every tick of such a run mixes 0. -/
theorem Chip.mixedTick_powerOn (P : Params) (m : VolModel) (peak : Nat) (e : EngineState) (k : Nat) :
    c.mixedTick (buildVolumeTable P decisions m peak) e k = 0 := by
  have x : (atTick design (c.walkEnv (buildVolumeTable P decisions m peak)) (c.synth e) k).x = powerOnRegisters :=
    (atTick_x_of_empty _ hq k).trans hx
  rw [Chip.mixedTick, x]
  exact mixSample_powerOn P m peak _ _

/-- Every engine, freshly reset, makes silence of such a run: PulseOut takes zeros, BlepOut answers zeros to zeros from
the zero filter state, DebugDump emits zeros (43_synthesis_engine.md R229, R231, R232). -/
theorem Chip.engineRun_pcm_powerOn (P : Params) (m : VolModel) (peak : Nat) {elapsed : Nat} (ha : elapsed % 32 = 0) :
    (c.engineRun P design (buildVolumeTable P decisions m peak) freshEngine elapsed).pcm =
      List.replicate (elapsed * c.sampleRateHz / c.clockHz) 0 := by
  by_cases hk : c.engineKind = .debugDump
  case pos => rw [Chip.engineRun_debugDump hk]
  case neg =>
    rw [Chip.engineRun_generating hk P _ _ ha]
    have mixed : c.mixedTick (buildVolumeTable P decisions m peak) freshEngine = fun _ => 0 :=
      funext (Chip.mixedTick_powerOn hx hq P m peak freshEngine)
    simp only [Chip.generatedOut, mixed, List.map_const', List.length_range]
    split
    · rfl
    · exact congrArg Prod.fst (P.blepOut_silent _ _)

end

/-- Settles O29: what the run appends is silence. -/
theorem powerOnRegistersAreSilent : Obligations.PowerOnRegistersAreSilent := by
  unfold Obligations.PowerOnRegistersAreSilent
  intro s n sl c m peak elapsed hl hx hq hb ht ha
  have he : c.binding.engine? = some freshEngine := congrArg Binding.engine? hb
  have silent := Chip.engineRun_pcm_powerOn hx hq hw m peak ha
  rw [← ht] at silent
  exact ⟨_, _, exec_eq _ _, (run_changedOnly hl he ha).slot, congrArg (sl.pcm ++ ·) silent⟩

end Sys2Proof.Machine
end

section
/-! SETACTIVE, SETRATE and SET_ENGINE on a Live instance and on the defaults (45_mute_rate_clock.md). -/

namespace Sys2Proof.Machine

open Sys2Proof.Config

/-! ## SETACTIVE -/

/-- The 3 bits of a mask computed on words: clear first, set second (45_mute_rate_clock.md R300). -/
theorem newMask_eq (prev : BitVec 3) (clr set : Word) :
    newMask prev clr set = (((prev.setWidth 32 &&& ~~~clr) ||| set) &&& 7).setWidth 3 := by
  have masked (w : Word) : (w &&& 7).setWidth 3 = w.setWidth 3 := by
    rw [BitVec.setWidth_and]
    exact BitVec.and_allOnes
  rw [masked, BitVec.setWidth_or, BitVec.setWidth_and, BitVec.setWidth_not (by decide),
    BitVec.setWidth_setWidth_of_le _ (by decide), BitVec.setWidth_eq]
  rfl

/-- SETACTIVE on a Live instance (45_mute_rate_clock.md R300). -/
theorem exec_setActive_live {s : State} {n : SlotNo} {c : Chip} (h : s.chip? (.slot n) = some c) (hi : s.g.init = true)
    (clr set : Word) :
    let new := newMask c.activeMask clr set
    exec (.setActive (.slot n) clr set) s =
      .next ((s.setChip (.slot n) (c.withMask design new)).ends design .setActive .done (new.setWidth 32)) := by
  rw [exec_eq, command, setActive, State.setter_handleOk (.inr (Option.isSome_of_eq_some h)) rfl (by decide), if_pos hi]
  simp [h]

/-- SETACTIVE on the default mask (45_mute_rate_clock.md R300). -/
theorem exec_setActive_null {s : State} (hi : s.g.init = true) (clr set : Word) :
    let new := newMask s.g.defActive clr set
    exec (.setActive .null clr set) s =
      .next (({ s with g := { s.g with defActive := new } }).ends design .setActive .done (new.setWidth 32)) := by
  rw [exec_eq, command, setActive, State.setter_handleOk (.inl rfl) rfl (by decide), if_pos hi]
  rfl

/-- Settles O46: the handle comes first, then initialisation; behind both the mask of the instance or the default mask
is replaced. -/
theorem setActiveComputesMask : Obligations.SetActiveComputesMask := by
  unfold Obligations.SetActiveComputesMask
  intro s clr set
  simp only [← newMask_eq]
  refine ⟨fun n hc => ?dead, fun sel h hi => ?uninitialised, fun n sl c hl hi => ?live, fun hi => ?null⟩
  case dead => rw [exec_eq, command, setActive, State.setter_eq_failedWith hc nofun]
  case uninitialised =>
    rw [exec_eq, command, setActive, State.setter_handleOk h rfl (by decide), hi, if_neg Bool.false_ne_true]
  case live =>
    exact ⟨_, exec_setActive_live hl.chip? hi clr set, State.changedOnly_setChip hl (c.withMask design _) .setActive _⟩
  case null => exact exec_setActive_null hi clr set

/-! ## SETRATE -/

/-- SETRATE on a Live instance (45_mute_rate_clock.md R301). -/
theorem exec_setRate_live {s : State} {sel : ChipSel} {c : Chip} (h : s.chip? sel = some c) (hz : Word) :
    let rate := c.effectiveRate hw hz.toNat
    exec (.setRate sel hz) s =
      .next ((s.setChip sel { c with sampleRateHz := rate }).ends design .setRate .done (resultWord rate)) := by
  rw [exec_eq, command, setRate_design, State.onChip_live h rfl (by decide)]

/-- The effective rate by whether an engine is bound (45_mute_rate_clock.md R301). -/
theorem Chip.effectiveRate_eq (P : Params) (c : Chip) (hz : Nat) :
    c.effectiveRate P hz =
      if c.binding.engine?.isSome then P.rateAdjust c.engineKind (clamp hz P.rateMin P.rateMax)
      else clamp hz P.rateMin P.rateMax := by
  unfold Chip.effectiveRate
  cases c.binding.engine? <;> rfl

/-- Settles O47: SETRATE puts the effective rate, which is in range, into the instance. -/
theorem setRateClampsAndAdjusts : Obligations.SetRateClampsAndAdjusts := by
  unfold Obligations.SetRateClampsAndAdjusts
  intro s n sl c hz hl
  rw [← clamp_eq_max_min (hw.rateMin_le_default.trans hw.rateDefault_le_max)]
  intro clamped rate
  have hrate : c.effectiveRate hw hz.toNat = rate := c.effectiveRate_eq hw hz.toNat
  rw [← hrate]
  obtain ⟨hmin, hmax⟩ := c.effectiveRate_range hw hz.toNat
  exact ⟨hmin, hmax, _, exec_setRate_live hl.chip? hz, State.changedOnly_setChip hl _ .setRate _⟩

/-! ## SET_ENGINE -/

/-- SET_ENGINE on a Live instance, once initialised (45_mute_rate_clock.md R302). -/
theorem exec_setEngine_live {s : State} {n : SlotNo} {c : Chip} (h : s.chip? (.slot n) = some c) (hi : s.g.init = true)
    (id : Word) :
    let e := resolveEngine decisions s.g.defEngine c.engineKind id
    let rate := hw.rateAdjust e.1 c.sampleRateHz
    let r := c.switchEngine design e.1 rate (engineSetup hw s e.1 rate)
    exec (.setEngine (.slot n) id) s = .next (
      if id = 0xFFFFFFFF then s.ends design .setEngine .done (engineId c.engineKind)
      else (((s.notices e.2).draw r.draws).setChip (.slot n) r.chip).ends design .setEngine r.ending (engineId e.1)) := by
  rw [exec_eq, command, setEngine, State.setter_handleOk (.inr (Option.isSome_of_eq_some h)) rfl (by decide), if_pos hi]
  simp [h]

/-- SET_ENGINE on the default engine, once initialised (45_mute_rate_clock.md R302). -/
theorem exec_setEngine_null {s : State} (hi : s.g.init = true) (id : Word) :
    let e := resolveEngine decisions s.g.defEngine s.g.defEngine id
    exec (.setEngine .null id) s =
      .next (({ s.notices e.2 with g := { s.g with defEngine := e.1 } }).ends design .setEngine .done (engineId e.1)) := by
  rw [exec_eq, command, setEngine, State.setter_handleOk (.inl rfl) rfl (by decide), if_pos hi]
  rfl

/-- The notices of an engine id, appended to the DIAG stream (45_mute_rate_clock.md R302). -/
theorem append_resolveEngine_notices (diag : List Notice) (dflt current : EngineKind) (id : Word) :
    diag ++ (resolveEngine decisions dflt current id).2 =
      if id ∈ [0, 1, 2, 3, 0xFFFFFFFF] then diag else diag ++ [.engine id] := by
  rw [resolveEngine_notices]
  split
  · exact List.append_nil _
  · rfl

/-- Settles O48: QUERY answers; any other id puts the instance, with the answer of setup, into its slot. -/
theorem setEngineOnInstance : Obligations.SetEngineOnInstance := by
  unfold Obligations.SetEngineOnInstance
  intro s n sl c id hl hi
  have hexec := exec_setEngine_live hl.chip? hi id
  refine ⟨fun hq => ?query, fun hq => ?switch⟩
  case query =>
    rw [hexec, if_pos hq, engineId_eq_engineNumber]
    rfl
  case switch =>
    have hkind := resolveEngine_kind s.g.defEngine c.engineKind id
    rw [if_neg hq] at hkind
    rw [← hkind]
    intro kind rate ok
    refine ⟨_, hexec.trans (congrArg _ (if_neg hq)), ?slot, .of_modify rfl, rfl, rfl, rfl, ?diag, ?answer⟩
    case slot =>
      rw [State.slot?_ends, State.slot?_setChip_self, State.slot?_draw, State.slot?_notices, hl.slot]
      rfl
    case diag =>
      refine (append_resolveEngine_notices s.diag s.g.defEngine c.engineKind id).trans ?_
      simp only [List.mem_cons, hq, List.not_mem_nil, or_false]
    case answer => simp [State.Answered, engineId_eq_engineNumber, ok, rate, kind, engineSetup]

/-- Settles O49: with the null handle the kind in force is the default, which QUERY and unknown ids leave. -/
theorem setEngineOnDefault : Obligations.SetEngineOnDefault := by
  unfold Obligations.SetEngineOnDefault
  intro s id hi
  have hkind := resolveEngine_kind s.g.defEngine s.g.defEngine id
  rw [ite_self] at hkind
  rw [exec_setEngine_null hi, engineId_eq_engineNumber, ← hkind,
    ← append_resolveEngine_notices s.diag s.g.defEngine s.g.defEngine]
  rfl

end Sys2Proof.Machine
end

section
/-! How a command ends: raising an error on the state before it, or answering OK or the outcome of an engine setup
(60_exceptions.md). -/

namespace Sys2Proof.Machine

open Sys2Proof.Config

/-- The ways a command can end on the state `s`: an error leaves `s` as it was (60_exceptions.md R321), and state is
written only by a command that answers OK or sets up an engine (60_exceptions.md R325, R329). -/
inductive CommandEnd (s : State) : State → Prop where
  | raised (st : Status) : CommandEnd s (s.failedWith st)
  | done (t : State) (cmd : CommandKind) (r0 r1 r2 : Word) : CommandEnd s (t.ends design cmd .done r0 r1 r2)
  | setUp (t : State) (cmd : CommandKind) (ok : Bool) (r0 r1 r2 : Word) :
      CommandEnd s (t.ends design cmd (setupEnding ok) r0 r1 r2)

/-- A command behind its checks: a check raises, or the command ends as its body does (60_exceptions.md R329). -/
theorem CommandEnd.guarded {s body : State} {cmd : CommandKind} {f : Failing} (h : CommandEnd s body) :
    CommandEnd s (s.guarded design cmd f body) := by
  rcases s.guarded_cases design cmd f body with ⟨st, -, e⟩ | ⟨-, e⟩ <;> rw [e]
  · exact .raised st
  · exact h

/-- A command on an instance: it raises without one, or ends as its body does (60_exceptions.md R322). -/
theorem CommandEnd.onChip {s : State} {cmd : CommandKind} {sel : ChipSel} {f : Failing} {body : Chip → State}
    (h : ∀ c, CommandEnd s (body c)) : CommandEnd s (s.onChip design cmd sel f body) := by
  refine .guarded ?_
  cases s.chip? sel with
  | none => exact .raised _
  | some c => exact h c

/-- RUN raises without an engine bound (43_synthesis_engine.md R220). -/
theorem commandEnd_run (P : Params) (sel : ChipSel) (elapsed : Nat) (bufv : Bool) (s : State) :
    CommandEnd s (run P design sel elapsed bufv s) := by
  refine .onChip fun c => ?_
  cases c.binding.engine? with
  | none => exact .raised _
  | some e => exact .done ..

/-- CREATE raises on a handle that names no slot (41_lifecycle.md R172). -/
theorem commandEnd_create (P : Params) (sel : ChipSel) (s : State) : CommandEnd s (create P design sel s) := by
  refine .guarded ?_
  cases s.slot? sel with
  | none => exact .raised _
  | some sl => exact .setUp ..

/-- SETACTIVE edits the default mask or that of an instance (45_mute_rate_clock.md R300). -/
theorem commandEnd_setActive (sel : ChipSel) (clr set : Word) (s : State) :
    CommandEnd s (setActive design sel clr set s) := by
  refine .guarded ?_
  split
  · exact .done ..
  · split
    · exact .raised _
    · exact .done ..

/-- SET_ENGINE edits the default engine, answers a query, or sets up the engine of an instance
(45_mute_rate_clock.md R302). -/
theorem commandEnd_setEngine (P : Params) (sel : ChipSel) (id : Word) (s : State) :
    CommandEnd s (setEngine P design sel id s) := by
  refine .guarded ?_
  split
  · exact .done ..
  · split
    · exact .raised _
    · split
      · exact .done ..
      · exact .setUp ..

/-- Every command ends in one of these ways (60_exceptions.md R320, R321). -/
theorem commandEnd_command (P : Params) (i : Instr) (s : State) : CommandEnd s (command P design i s) := by
  cases i with
  | wr0 | wr1 | wr2 | wr3 | wr4 | wr5 | wr6 | wr7 | wr8 | wr9 | wr10 | wr11 | wr12 | wr13 | wr14 | wr15 | cycleAdjust
    | reset | bufSize | cleanup => exact .onChip fun _ => .done ..
  | configure => exact .onChip fun _ => .setUp ..
  | setRate sel hz =>
    rw [command, setRate_design]
    exact .onChip fun _ => .done ..
  | setVolModel | globalInit | globalShutdown => exact .guarded (.done ..)
  | run sel elapsed bufv => exact commandEnd_run P sel elapsed bufv s
  | create sel => exact commandEnd_create P sel s
  | setActive sel clr set => exact commandEnd_setActive sel clr set s
  | setEngine sel id => exact commandEnd_setEngine P sel id s

/-- An end that answers E_INVAL or E_STATE leaves the state as it was, with zero result words
(60_exceptions.md R321). -/
theorem CommandEnd.eq_failedWith {s t : State} {r : Response} (h : CommandEnd s t) (hr : t.resp = some r)
    (herr : r.status = .eInval ∨ r.status = .eState) : t = s.failedWith r.status := by
  cases h with
  | raised st =>
    cases hr
    rfl
  | done t cmd r0 r1 r2 =>
    cases hr
    rcases herr with h | h <;> cases h
  | setUp t cmd ok r0 r1 r2 =>
    cases hr
    cases ok <;> rcases herr with h | h <;> cases h

/-- Settles O9: the command's end answers E_INVAL or E_STATE only where it raised. -/
theorem errorsChangeNothing : Obligations.ErrorsChangeNothing := by
  unfold Obligations.ErrorsChangeNothing
  intro i s t r h hr herr
  rw [exec_eq] at h
  cases h
  exact (commandEnd_command hw i s).eq_failedWith hr herr

end Sys2Proof.Machine
end

section
/-! The block at power-on and before GLOBAL_INIT (70_reset_and_hazards.md R352). -/

namespace Sys2Proof.Machine

open Sys2Proof.Config

/-! ## Power-on -/

/-- Settles O6: the slots are NCHIP copies of an Absent one, and NCHIP is in range by the laws of the parameters. -/
theorem powerOnState : Obligations.PowerOnState := by
  unfold Obligations.PowerOnState
  refine ⟨rfl, List.length_replicate, hw.nchip_pos, hw.nchip_le, fun sl hsl => ?_⟩
  rw [List.eq_of_mem_replicate hsl]
  rfl

/-! ## Before GLOBAL_INIT -/

/-- Where no instance is Live every handle is dead (10_state.md R48). -/
theorem State.chip?_eq_none_of_anyLive {s : State} (h : s.anyLive = false) (sel : ChipSel) : s.chip? sel = none := by
  refine Option.eq_none_iff_forall_ne_some.mpr fun c hc => ?_
  obtain ⟨n, sl, rfl, live⟩ := State.liveAt_of_chip?_sel hc
  have hmem : sl ∈ s.chips := List.mem_of_getElem? live.slot
  have hdead := List.any_eq_false.mp h sl hmem
  simp [Slot.chip?_eq_some.mpr live.life] at hdead

/-- A setter with the null handle fails its lifecycle check before initialisation (60_exceptions.md R327, R328). -/
theorem State.setter_null_uninitialised {s : State} (hi : s.g.init = false) {cmd : CommandKind}
    (hc : cmd.checksLifecycle = true) (hr : cmd ≠ .run) (body : State) :
    s.guarded design cmd (s.setterFailing (s.setterTarget design .null)) body = s.failedWith .eState := by
  rw [State.setter_handleOk (.inl rfl) hc hr, hi, if_neg Bool.false_ne_true]

/-- Settles O10: no instance is Live, so every command that needs one has a dead handle; CREATE on a slot,
GLOBAL_SHUTDOWN and the setters with the null handle fail their lifecycle check. -/
theorem uninitialisedCommandsFail : Obligations.UninitialisedCommandsFail := by
  unfold Obligations.UninitialisedCommandsFail
  intro i s hi hl hne
  have dead := State.chip?_eq_none_of_anyLive hl
  cases i with
  | wr0 | wr1 | wr2 | wr3 | wr4 | wr5 | wr6 | wr7 | wr8 | wr9 | wr10 | wr11 | wr12 | wr13 | wr14 | wr15 | run | cycleAdjust
    | reset | bufSize | configure | cleanup | setRate =>
    exact deadHandleIsInvalid _ _ s rfl (dead _) nofun fun _ => ⟨nofun, nofun, nofun⟩
  | setActive sel | setEngine sel | setVolModel sel =>
    cases sel with
    | null => exact congrArg _ (State.setter_null_uninitialised hi rfl (by decide) _)
    | slot n => exact deadHandleIsInvalid _ _ s rfl (dead _) nofun nofun
  | create sel =>
    cases hs : s.slot? sel with
    | none => simpa [hs] using exec_create_no_slot hs
    | some sl =>
      have hsome : (s.slot? sel).isSome := Option.isSome_of_eq_some hs
      simpa [hs] using exec_create_wrong_state hsome (.inl hi)
  | globalShutdown => rw [exec_globalShutdown, if_pos (by simp [hi])]
  | globalInit => exact absurd rfl hne

end Sys2Proof.Machine
end
